-- ==== Sys2Proof/Word.lean ====
section
/-! DEFINITION. The fixed widths of the Sparrow core: XLEN, register numbers, CSR addresses (00_scope.md R6, R8). -/

namespace Sys2Proof

/-- A general register, an address, the pc, an instruction word: 32 bits (00_scope.md R6, R8). -/
abbrev Word := BitVec 32

/-- One byte of memory, the smallest addressable unit (20_memory.md R80). -/
abbrev Byte := BitVec 8

/-- The 5-bit number of a general register as an instruction encodes it (30_encoding.md R127). -/
abbrev RegNum := BitVec 5

/-- The 12-bit address of a control register (10_state.md R30). -/
abbrev CsrAddr := BitVec 12

/-- The 5-bit id of an external interrupt source (60_exceptions.md R366). -/
abbrev SourceId := BitVec 5

end Sys2Proof
end

