-- ==== Sys2Proof/Syntax.lean ====
section
/-! DEFINITION. The instructions: one constructor per row of spec/opcode_table.json, in the table's order
(30_encoding.md R131, R133), with the operands of each format as bit fields. -/

namespace Sys2Proof

/-- An instruction. Operands are in assembler order (30_encoding.md R138); `offset` is the whole byte offset of a
branch or of `jal`, its bit 0 included (R128); `imm20` is bits 31:12 of an upper immediate. -/
inductive Instr where
  -- 40_alu_reg.md
  | add (rd rs1 rs2 : RegNum)
  | sub (rd rs1 rs2 : RegNum)
  | xor (rd rs1 rs2 : RegNum)
  | or (rd rs1 rs2 : RegNum)
  | and (rd rs1 rs2 : RegNum)
  | sll (rd rs1 rs2 : RegNum)
  | srl (rd rs1 rs2 : RegNum)
  | sra (rd rs1 rs2 : RegNum)
  | slt (rd rs1 rs2 : RegNum)
  | sltu (rd rs1 rs2 : RegNum)
  -- 41_alu_imm.md
  | addi (rd rs1 : RegNum) (imm : BitVec 12)
  | xori (rd rs1 : RegNum) (imm : BitVec 12)
  | ori (rd rs1 : RegNum) (imm : BitVec 12)
  | andi (rd rs1 : RegNum) (imm : BitVec 12)
  | slli (rd rs1 : RegNum) (shamt : BitVec 5)
  | srli (rd rs1 : RegNum) (shamt : BitVec 5)
  | srai (rd rs1 : RegNum) (shamt : BitVec 5)
  | slti (rd rs1 : RegNum) (imm : BitVec 12)
  | sltiu (rd rs1 : RegNum) (imm : BitVec 12)
  -- 42_load.md
  | lb (rd rs1 : RegNum) (imm : BitVec 12)
  | lh (rd rs1 : RegNum) (imm : BitVec 12)
  | lw (rd rs1 : RegNum) (imm : BitVec 12)
  | lbu (rd rs1 : RegNum) (imm : BitVec 12)
  | lhu (rd rs1 : RegNum) (imm : BitVec 12)
  -- 43_store.md
  | sb (rs2 rs1 : RegNum) (imm : BitVec 12)
  | sh (rs2 rs1 : RegNum) (imm : BitVec 12)
  | sw (rs2 rs1 : RegNum) (imm : BitVec 12)
  -- 44_branch.md
  | beq (rs1 rs2 : RegNum) (offset : BitVec 13)
  | bne (rs1 rs2 : RegNum) (offset : BitVec 13)
  | blt (rs1 rs2 : RegNum) (offset : BitVec 13)
  | bge (rs1 rs2 : RegNum) (offset : BitVec 13)
  | bltu (rs1 rs2 : RegNum) (offset : BitVec 13)
  | bgeu (rs1 rs2 : RegNum) (offset : BitVec 13)
  -- 45_jump.md
  | jal (rd : RegNum) (offset : BitVec 21)
  | jalr (rd rs1 : RegNum) (imm : BitVec 12)
  -- 46_upper_imm.md
  | lui (rd : RegNum) (imm20 : BitVec 20)
  | auipc (rd : RegNum) (imm20 : BitVec 20)
  -- 47_trap_ret_wfi.md
  | mret
  | wfi
  -- 48_csr.md
  | csrrw (rd : RegNum) (csr : CsrAddr) (rs1 : RegNum)
  | csrrs (rd : RegNum) (csr : CsrAddr) (rs1 : RegNum)
  | csrrc (rd : RegNum) (csr : CsrAddr) (rs1 : RegNum)
  | csrrwi (rd : RegNum) (csr : CsrAddr) (uimm : BitVec 5)
  | csrrsi (rd : RegNum) (csr : CsrAddr) (uimm : BitVec 5)
  | csrrci (rd : RegNum) (csr : CsrAddr) (uimm : BitVec 5)
  -- 49_m_ext.md
  | mul (rd rs1 rs2 : RegNum)
  | mulhu (rd rs1 rs2 : RegNum)
  | mulh (rd rs1 rs2 : RegNum)
  | mulhsu (rd rs1 rs2 : RegNum)
  | div (rd rs1 rs2 : RegNum)
  | divu (rd rs1 rs2 : RegNum)
  | rem (rd rs1 rs2 : RegNum)
  | remu (rd rs1 rs2 : RegNum)
  -- 30_encoding.md R133: recorded so that they can be named, not part of the instruction set
  | fence (fm pred succ : BitVec 4) (rs1 rd : RegNum)
  | ecall
  | ebreak
deriving DecidableEq, Repr

end Sys2Proof
end

