-- ==== Sys2Proof/WellFormed.lean ====
section
/-! DEFINITION. Which instruction terms an encoding can name: the register numbers under RVE, the M rows, the even
offsets of branches and `jal` (30_encoding.md R128, R134, R135). -/

namespace Sys2Proof

/-- The register operands of an instruction, the fields that R134 checks under RVE. The immediate of a CSR immediate
form and a shift amount are no registers; `mret`, `wfi` and the unlisted instructions have none to check. -/
def Instr.regFields : Instr → List RegNum
  | .add rd rs1 rs2 | .sub rd rs1 rs2 | .xor rd rs1 rs2 | .or rd rs1 rs2 | .and rd rs1 rs2
  | .sll rd rs1 rs2 | .srl rd rs1 rs2 | .sra rd rs1 rs2 | .slt rd rs1 rs2 | .sltu rd rs1 rs2
  | .mul rd rs1 rs2 | .mulhu rd rs1 rs2 | .mulh rd rs1 rs2 | .mulhsu rd rs1 rs2
  | .div rd rs1 rs2 | .divu rd rs1 rs2 | .rem rd rs1 rs2 | .remu rd rs1 rs2 => [rd, rs1, rs2]
  | .addi rd rs1 _ | .xori rd rs1 _ | .ori rd rs1 _ | .andi rd rs1 _
  | .slli rd rs1 _ | .srli rd rs1 _ | .srai rd rs1 _ | .slti rd rs1 _ | .sltiu rd rs1 _
  | .lb rd rs1 _ | .lh rd rs1 _ | .lw rd rs1 _ | .lbu rd rs1 _ | .lhu rd rs1 _
  | .jalr rd rs1 _ => [rd, rs1]
  | .sb rs2 rs1 _ | .sh rs2 rs1 _ | .sw rs2 rs1 _ => [rs1, rs2]
  | .beq rs1 rs2 _ | .bne rs1 rs2 _ | .blt rs1 rs2 _
  | .bge rs1 rs2 _ | .bltu rs1 rs2 _ | .bgeu rs1 rs2 _ => [rs1, rs2]
  | .jal rd _ | .lui rd _ | .auipc rd _ => [rd]
  | .csrrw rd _ rs1 | .csrrs rd _ rs1 | .csrrc rd _ rs1 => [rd, rs1]
  | .csrrwi rd _ _ | .csrrsi rd _ _ | .csrrci rd _ _ => [rd]
  | .mret | .wfi | .fence _ _ _ _ _ | .ecall | .ebreak => []

/-- R134: with RVE every register operand is below 16. -/
def Instr.regsOk (rve : Bool) (i : Instr) : Bool :=
  !rve || i.regFields.all (fun r => decide (r.toNat < 16))

/-- The eight rows that exist only with HAS_M (30_encoding.md R135). -/
def Instr.isM : Instr → Bool
  | .mul _ _ _ | .mulhu _ _ _ | .mulh _ _ _ | .mulhsu _ _ _
  | .div _ _ _ | .divu _ _ _ | .rem _ _ _ | .remu _ _ _ => true
  | .add _ _ _ | .sub _ _ _ | .xor _ _ _ | .or _ _ _ | .and _ _ _
  | .sll _ _ _ | .srl _ _ _ | .sra _ _ _ | .slt _ _ _ | .sltu _ _ _
  | .addi _ _ _ | .xori _ _ _ | .ori _ _ _ | .andi _ _ _
  | .slli _ _ _ | .srli _ _ _ | .srai _ _ _ | .slti _ _ _ | .sltiu _ _ _
  | .lb _ _ _ | .lh _ _ _ | .lw _ _ _ | .lbu _ _ _ | .lhu _ _ _
  | .sb _ _ _ | .sh _ _ _ | .sw _ _ _
  | .beq _ _ _ | .bne _ _ _ | .blt _ _ _ | .bge _ _ _ | .bltu _ _ _ | .bgeu _ _ _
  | .jal _ _ | .jalr _ _ _ | .lui _ _ | .auipc _ _ | .mret | .wfi
  | .csrrw _ _ _ | .csrrs _ _ _ | .csrrc _ _ _ | .csrrwi _ _ _ | .csrrsi _ _ _ | .csrrci _ _ _
  | .fence _ _ _ _ _ | .ecall | .ebreak => false

/-- The offset of a branch or of `jal` is even (30_encoding.md R128). -/
def Instr.offsetEven : Instr → Bool
  | .beq _ _ o | .bne _ _ o | .blt _ _ o | .bge _ _ o | .bltu _ _ o | .bgeu _ _ o => !o.getLsbD 0
  | .jal _ o => !o.getLsbD 0
  | .add _ _ _ | .sub _ _ _ | .xor _ _ _ | .or _ _ _ | .and _ _ _
  | .sll _ _ _ | .srl _ _ _ | .sra _ _ _ | .slt _ _ _ | .sltu _ _ _
  | .addi _ _ _ | .xori _ _ _ | .ori _ _ _ | .andi _ _ _
  | .slli _ _ _ | .srli _ _ _ | .srai _ _ _ | .slti _ _ _ | .sltiu _ _ _
  | .lb _ _ _ | .lh _ _ _ | .lw _ _ _ | .lbu _ _ _ | .lhu _ _ _
  | .sb _ _ _ | .sh _ _ _ | .sw _ _ _
  | .jalr _ _ _ | .lui _ _ | .auipc _ _ | .mret | .wfi
  | .csrrw _ _ _ | .csrrs _ _ _ | .csrrc _ _ _ | .csrrwi _ _ _ | .csrrsi _ _ _ | .csrrci _ _ _
  | .mul _ _ _ | .mulhu _ _ _ | .mulh _ _ _ | .mulhsu _ _ _
  | .div _ _ _ | .divu _ _ _ | .rem _ _ _ | .remu _ _ _
  | .fence _ _ _ _ _ | .ecall | .ebreak => true

/-- An instruction term that some word of the configuration decodes to. -/
def Instr.wf (rve hasM : Bool) (i : Instr) : Bool :=
  i.regsOk rve && (hasM || !i.isM) && i.offsetEven

end Sys2Proof
end

