-- ==== Sys2Proof/Decode.lean ====
section
/-! DEFINITION. Decoding and encoding (30_encoding.md). A 32-bit word is cut once into the six fields of the R format;
every other format is a reading of the same fields. Decoding is total and rejects by name. -/

namespace Sys2Proof

/-- The fields of an instruction word at the places of the R format (30_encoding.md R121). -/
structure Fields where
  funct7 : BitVec 7
  rs2 : BitVec 5
  rs1 : BitVec 5
  funct3 : BitVec 3
  rd : BitVec 5
  opcode : BitVec 7
deriving DecidableEq, Repr

/-- The six fields of a word (R121). -/
def fieldsOf (w : Word) : Fields :=
  { funct7 := w.extractLsb' 25 7
    rs2 := w.extractLsb' 20 5
    rs1 := w.extractLsb' 15 5
    funct3 := w.extractLsb' 12 3
    rd := w.extractLsb' 7 5
    opcode := w.extractLsb' 0 7 }

/-- The word that six fields make (R121). -/
def wordOf (f : Fields) : Word :=
  f.funct7 ++ f.rs2 ++ f.rs1 ++ f.funct3 ++ f.rd ++ f.opcode

/-! ### Immediates (30_encoding.md R122 to R126, R128) -/

/-- `inst[31:20]`: the I immediate, also the CSR address (R122). -/
def Fields.immI (f : Fields) : BitVec 12 := f.funct7 ++ f.rs2

/-- `inst[31:25]`, `inst[11:7]`: the S immediate (R123). -/
def Fields.immS (f : Fields) : BitVec 12 := f.funct7 ++ f.rd

/-- `inst[31]`, `inst[7]`, `inst[30:25]`, `inst[11:8]`, 0: the B offset (R124, R128). -/
def Fields.immB (f : Fields) : BitVec 13 :=
  f.funct7.extractLsb' 6 1 ++ f.rd.extractLsb' 0 1 ++ f.funct7.extractLsb' 0 6 ++ f.rd.extractLsb' 1 4 ++ 0#1

/-- `inst[31:12]`: the U immediate field (R125). -/
def Fields.immU (f : Fields) : BitVec 20 := f.funct7 ++ f.rs2 ++ f.rs1 ++ f.funct3

/-- `inst[31]`, `inst[19:12]`, `inst[20]`, `inst[30:21]`, 0: the J offset (R126, R128). -/
def Fields.immJ (f : Fields) : BitVec 21 :=
  f.immU.extractLsb' 19 1 ++ f.immU.extractLsb' 0 8 ++ f.immU.extractLsb' 8 1 ++ f.immU.extractLsb' 9 10 ++ 0#1

/-! ### Decoding (30_encoding.md R129 to R133) -/

/-- OP with `funct7` 0000000 (R131). -/
def decodeOp (f : Fields) : Option Instr :=
  match f.funct3 with
  | 0b000#3 => some (.add f.rd f.rs1 f.rs2)
  | 0b001#3 => some (.sll f.rd f.rs1 f.rs2)
  | 0b010#3 => some (.slt f.rd f.rs1 f.rs2)
  | 0b011#3 => some (.sltu f.rd f.rs1 f.rs2)
  | 0b100#3 => some (.xor f.rd f.rs1 f.rs2)
  | 0b101#3 => some (.srl f.rd f.rs1 f.rs2)
  | 0b110#3 => some (.or f.rd f.rs1 f.rs2)
  | 0b111#3 => some (.and f.rd f.rs1 f.rs2)

/-- OP with `funct7` 0100000 (R131). -/
def decodeOpAlt (f : Fields) : Option Instr :=
  match f.funct3 with
  | 0b000#3 => some (.sub f.rd f.rs1 f.rs2)
  | 0b101#3 => some (.sra f.rd f.rs1 f.rs2)
  | _ => none

/-- OP with `funct7` 0000001: the M rows (R131, R135). -/
def decodeOpM (f : Fields) : Option Instr :=
  match f.funct3 with
  | 0b000#3 => some (.mul f.rd f.rs1 f.rs2)
  | 0b001#3 => some (.mulh f.rd f.rs1 f.rs2)
  | 0b010#3 => some (.mulhsu f.rd f.rs1 f.rs2)
  | 0b011#3 => some (.mulhu f.rd f.rs1 f.rs2)
  | 0b100#3 => some (.div f.rd f.rs1 f.rs2)
  | 0b101#3 => some (.divu f.rd f.rs1 f.rs2)
  | 0b110#3 => some (.rem f.rd f.rs1 f.rs2)
  | 0b111#3 => some (.remu f.rd f.rs1 f.rs2)

/-- OP-IMM (R131); the shifts fix `inst[31:25]` (41_alu_imm.md R189). -/
def decodeOpImm (f : Fields) : Option Instr :=
  match f.funct3 with
  | 0b000#3 => some (.addi f.rd f.rs1 f.immI)
  | 0b001#3 => if f.funct7 = 0b0000000#7 then some (.slli f.rd f.rs1 f.rs2) else none
  | 0b010#3 => some (.slti f.rd f.rs1 f.immI)
  | 0b011#3 => some (.sltiu f.rd f.rs1 f.immI)
  | 0b100#3 => some (.xori f.rd f.rs1 f.immI)
  | 0b101#3 =>
    if f.funct7 = 0b0000000#7 then some (.srli f.rd f.rs1 f.rs2)
    else if f.funct7 = 0b0100000#7 then some (.srai f.rd f.rs1 f.rs2)
    else none
  | 0b110#3 => some (.ori f.rd f.rs1 f.immI)
  | 0b111#3 => some (.andi f.rd f.rs1 f.immI)

/-- LOAD (R131). -/
def decodeLoad (f : Fields) : Option Instr :=
  match f.funct3 with
  | 0b000#3 => some (.lb f.rd f.rs1 f.immI)
  | 0b001#3 => some (.lh f.rd f.rs1 f.immI)
  | 0b010#3 => some (.lw f.rd f.rs1 f.immI)
  | 0b100#3 => some (.lbu f.rd f.rs1 f.immI)
  | 0b101#3 => some (.lhu f.rd f.rs1 f.immI)
  | _ => none

/-- STORE (R131). -/
def decodeStore (f : Fields) : Option Instr :=
  match f.funct3 with
  | 0b000#3 => some (.sb f.rs2 f.rs1 f.immS)
  | 0b001#3 => some (.sh f.rs2 f.rs1 f.immS)
  | 0b010#3 => some (.sw f.rs2 f.rs1 f.immS)
  | _ => none

/-- BRANCH (R131). -/
def decodeBranch (f : Fields) : Option Instr :=
  match f.funct3 with
  | 0b000#3 => some (.beq f.rs1 f.rs2 f.immB)
  | 0b001#3 => some (.bne f.rs1 f.rs2 f.immB)
  | 0b100#3 => some (.blt f.rs1 f.rs2 f.immB)
  | 0b101#3 => some (.bge f.rs1 f.rs2 f.immB)
  | 0b110#3 => some (.bltu f.rs1 f.rs2 f.immB)
  | 0b111#3 => some (.bgeu f.rs1 f.rs2 f.immB)
  | _ => none

/-- SYSTEM with `funct3` 000: the fixed words `mret` and `wfi` (R131), `ecall` and `ebreak` (R133). -/
def decodeSystemFixed (f : Fields) : Option Instr :=
  if f.rs1 = 0#5 ∧ f.rd = 0#5 then
    match f.immI with
    | 0x302#12 => some .mret
    | 0x105#12 => some .wfi
    | 0x000#12 => some .ecall
    | 0x001#12 => some .ebreak
    | _ => none
  else none

/-- SYSTEM (R131). -/
def decodeSystem (f : Fields) : Option Instr :=
  match f.funct3 with
  | 0b000#3 => decodeSystemFixed f
  | 0b001#3 => some (.csrrw f.rd f.immI f.rs1)
  | 0b010#3 => some (.csrrs f.rd f.immI f.rs1)
  | 0b011#3 => some (.csrrc f.rd f.immI f.rs1)
  | 0b101#3 => some (.csrrwi f.rd f.immI f.rs1)
  | 0b110#3 => some (.csrrsi f.rd f.immI f.rs1)
  | 0b111#3 => some (.csrrci f.rd f.immI f.rs1)
  | _ => none

/-- The row that six fields select (R129, R131), the recorded unlisted rows of R133 among them; `none` is an unlisted
encoding (R132). The M rows are there only with HAS_M (R135). -/
def decodeFields (hasM : Bool) (f : Fields) : Option Instr :=
  match f.opcode with
  | 0x37#7 => some (.lui f.rd f.immU)
  | 0x17#7 => some (.auipc f.rd f.immU)
  | 0x6F#7 => some (.jal f.rd f.immJ)
  | 0x67#7 => if f.funct3 = 0b000#3 then some (.jalr f.rd f.rs1 f.immI) else none
  | 0x63#7 => decodeBranch f
  | 0x03#7 => decodeLoad f
  | 0x23#7 => decodeStore f
  | 0x13#7 => decodeOpImm f
  | 0x33#7 =>
    if f.funct7 = 0b0000000#7 then decodeOp f
    else if f.funct7 = 0b0100000#7 then decodeOpAlt f
    else if f.funct7 = 0b0000001#7 ∧ hasM = true then decodeOpM f
    else none
  | 0x73#7 => decodeSystem f
  | 0x0F#7 =>
    if f.funct3 = 0b000#3 then
      some (.fence (f.immI.extractLsb' 8 4) (f.immI.extractLsb' 4 4) (f.immI.extractLsb' 0 4) f.rs1 f.rd)
    else none
  | _ => none

/-- Why a word, or a row of bytes, decodes to no instruction. -/
inductive DecodeRefusal where
  /-- The word matches no row (R132); also an M word without HAS_M (R135). -/
  | unlistedEncoding
  /-- A row matches, but with RVE a register operand is 16 or more (R134). -/
  | rveRegisterOutOfRange
  /-- Fewer than four bytes: no whole word (R120). -/
  | truncated
deriving DecidableEq, Repr

/-- Decoding of a word (R130): the row first, then the register check of R134. -/
def decode (rve hasM : Bool) (w : Word) : Except DecodeRefusal Instr :=
  match decodeFields hasM (fieldsOf w) with
  | none => .error .unlistedEncoding
  | some i => if i.regsOk rve then .ok i else .error .rveRegisterOutOfRange

/-- The word that four bytes make, the first at the lowest address: little-endian (20_memory.md R84, R88). -/
def wordOfBytes (b0 b1 b2 b3 : Byte) : Word := b3 ++ b2 ++ b1 ++ b0

/-- Byte `k` of a word as it lies in memory: bits `8k+7:8k` (20_memory.md R84, R87). -/
def byteOfWord (w : Word) (k : Nat) : Byte := w.extractLsb' (8 * k) 8

/-- The four bytes of a word in memory order. -/
def bytesOfWord (w : Word) : List Byte :=
  [byteOfWord w 0, byteOfWord w 1, byteOfWord w 2, byteOfWord w 3]

/-- Decoding of the instruction at the front of a row of bytes, with the bytes that follow it (R120, R130). -/
def decodeBytes (rve hasM : Bool) : List Byte → Except DecodeRefusal (Instr × List Byte)
  | b0 :: b1 :: b2 :: b3 :: rest =>
    match decode rve hasM (wordOfBytes b0 b1 b2 b3) with
    | .ok i => .ok (i, rest)
    | .error e => .error e
  | _ => .error .truncated

/-- The instruction word with the low `nbits` bits of `w` and zeros above. -/
def tableWord (nbits w : Nat) : Word := BitVec.ofNat 32 (w % 2 ^ nbits)

/-- What the decoder, configured RV32IM, reads from a row of the opcode table whose bits are `w`. -/
def decodeTableWord (nbits w : Nat) : Option Instr :=
  match decodeBytes false true (bytesOfWord (tableWord nbits w)) with
  | .ok (i, _) => some i
  | .error _ => none

/-! ### Encoding (30_encoding.md R121 to R128, R131, R133) -/

/-- R format. -/
def encodeR (funct7 : BitVec 7) (funct3 : BitVec 3) (opcode : BitVec 7) (rd rs1 rs2 : RegNum) : Word :=
  wordOf { funct7 := funct7, rs2 := rs2, rs1 := rs1, funct3 := funct3, rd := rd, opcode := opcode }

/-- I format. -/
def encodeI (funct3 : BitVec 3) (opcode : BitVec 7) (rd rs1 : RegNum) (imm : BitVec 12) : Word :=
  encodeR (imm.extractLsb' 5 7) funct3 opcode rd rs1 (imm.extractLsb' 0 5)

/-- S format. -/
def encodeS (funct3 : BitVec 3) (opcode : BitVec 7) (rs1 rs2 : RegNum) (imm : BitVec 12) : Word :=
  encodeR (imm.extractLsb' 5 7) funct3 opcode (imm.extractLsb' 0 5) rs1 rs2

/-- B format. -/
def encodeB (funct3 : BitVec 3) (opcode : BitVec 7) (rs1 rs2 : RegNum) (offset : BitVec 13) : Word :=
  encodeR (offset.extractLsb' 12 1 ++ offset.extractLsb' 5 6) funct3 opcode
    (offset.extractLsb' 1 4 ++ offset.extractLsb' 11 1) rs1 rs2

/-- U format. -/
def encodeU (opcode : BitVec 7) (rd : RegNum) (imm20 : BitVec 20) : Word :=
  encodeR (imm20.extractLsb' 13 7) (imm20.extractLsb' 0 3) opcode rd (imm20.extractLsb' 3 5) (imm20.extractLsb' 8 5)

/-- J format: the U layout of the permuted offset. -/
def encodeJ (opcode : BitVec 7) (rd : RegNum) (offset : BitVec 21) : Word :=
  encodeU opcode rd
    (offset.extractLsb' 20 1 ++ offset.extractLsb' 1 10 ++ offset.extractLsb' 11 1 ++ offset.extractLsb' 12 8)

/-- The word of an instruction. For a term whose offset is odd (not well-formed) bit 0 of the offset is lost. -/
def encode : Instr → Word
  | .add rd rs1 rs2 => encodeR 0b0000000 0b000 0x33 rd rs1 rs2
  | .sub rd rs1 rs2 => encodeR 0b0100000 0b000 0x33 rd rs1 rs2
  | .xor rd rs1 rs2 => encodeR 0b0000000 0b100 0x33 rd rs1 rs2
  | .or rd rs1 rs2 => encodeR 0b0000000 0b110 0x33 rd rs1 rs2
  | .and rd rs1 rs2 => encodeR 0b0000000 0b111 0x33 rd rs1 rs2
  | .sll rd rs1 rs2 => encodeR 0b0000000 0b001 0x33 rd rs1 rs2
  | .srl rd rs1 rs2 => encodeR 0b0000000 0b101 0x33 rd rs1 rs2
  | .sra rd rs1 rs2 => encodeR 0b0100000 0b101 0x33 rd rs1 rs2
  | .slt rd rs1 rs2 => encodeR 0b0000000 0b010 0x33 rd rs1 rs2
  | .sltu rd rs1 rs2 => encodeR 0b0000000 0b011 0x33 rd rs1 rs2
  | .addi rd rs1 imm => encodeI 0b000 0x13 rd rs1 imm
  | .xori rd rs1 imm => encodeI 0b100 0x13 rd rs1 imm
  | .ori rd rs1 imm => encodeI 0b110 0x13 rd rs1 imm
  | .andi rd rs1 imm => encodeI 0b111 0x13 rd rs1 imm
  | .slli rd rs1 shamt => encodeR 0b0000000 0b001 0x13 rd rs1 shamt
  | .srli rd rs1 shamt => encodeR 0b0000000 0b101 0x13 rd rs1 shamt
  | .srai rd rs1 shamt => encodeR 0b0100000 0b101 0x13 rd rs1 shamt
  | .slti rd rs1 imm => encodeI 0b010 0x13 rd rs1 imm
  | .sltiu rd rs1 imm => encodeI 0b011 0x13 rd rs1 imm
  | .lb rd rs1 imm => encodeI 0b000 0x03 rd rs1 imm
  | .lh rd rs1 imm => encodeI 0b001 0x03 rd rs1 imm
  | .lw rd rs1 imm => encodeI 0b010 0x03 rd rs1 imm
  | .lbu rd rs1 imm => encodeI 0b100 0x03 rd rs1 imm
  | .lhu rd rs1 imm => encodeI 0b101 0x03 rd rs1 imm
  | .sb rs2 rs1 imm => encodeS 0b000 0x23 rs1 rs2 imm
  | .sh rs2 rs1 imm => encodeS 0b001 0x23 rs1 rs2 imm
  | .sw rs2 rs1 imm => encodeS 0b010 0x23 rs1 rs2 imm
  | .beq rs1 rs2 offset => encodeB 0b000 0x63 rs1 rs2 offset
  | .bne rs1 rs2 offset => encodeB 0b001 0x63 rs1 rs2 offset
  | .blt rs1 rs2 offset => encodeB 0b100 0x63 rs1 rs2 offset
  | .bge rs1 rs2 offset => encodeB 0b101 0x63 rs1 rs2 offset
  | .bltu rs1 rs2 offset => encodeB 0b110 0x63 rs1 rs2 offset
  | .bgeu rs1 rs2 offset => encodeB 0b111 0x63 rs1 rs2 offset
  | .jal rd offset => encodeJ 0x6F rd offset
  | .jalr rd rs1 imm => encodeI 0b000 0x67 rd rs1 imm
  | .lui rd imm20 => encodeU 0x37 rd imm20
  | .auipc rd imm20 => encodeU 0x17 rd imm20
  | .mret => encodeI 0b000 0x73 0 0 0x302
  | .wfi => encodeI 0b000 0x73 0 0 0x105
  | .csrrw rd csr rs1 => encodeI 0b001 0x73 rd rs1 csr
  | .csrrs rd csr rs1 => encodeI 0b010 0x73 rd rs1 csr
  | .csrrc rd csr rs1 => encodeI 0b011 0x73 rd rs1 csr
  | .csrrwi rd csr uimm => encodeI 0b101 0x73 rd uimm csr
  | .csrrsi rd csr uimm => encodeI 0b110 0x73 rd uimm csr
  | .csrrci rd csr uimm => encodeI 0b111 0x73 rd uimm csr
  | .mul rd rs1 rs2 => encodeR 0b0000001 0b000 0x33 rd rs1 rs2
  | .mulhu rd rs1 rs2 => encodeR 0b0000001 0b011 0x33 rd rs1 rs2
  | .mulh rd rs1 rs2 => encodeR 0b0000001 0b001 0x33 rd rs1 rs2
  | .mulhsu rd rs1 rs2 => encodeR 0b0000001 0b010 0x33 rd rs1 rs2
  | .div rd rs1 rs2 => encodeR 0b0000001 0b100 0x33 rd rs1 rs2
  | .divu rd rs1 rs2 => encodeR 0b0000001 0b101 0x33 rd rs1 rs2
  | .rem rd rs1 rs2 => encodeR 0b0000001 0b110 0x33 rd rs1 rs2
  | .remu rd rs1 rs2 => encodeR 0b0000001 0b111 0x33 rd rs1 rs2
  | .fence fm pred succ rs1 rd => encodeI 0b000 0x0F rd rs1 (fm ++ pred ++ succ)
  | .ecall => encodeI 0b000 0x73 0 0 0x000
  | .ebreak => encodeI 0b000 0x73 0 0 0x001

/-! ### The opcode table as the spec prints it (30_encoding.md R131, R133)

A second, independent writing of the encodings: the decoder is compared with it by statements, it does not use it. -/

/-- The `match` and `mask` columns of one row. -/
structure OpcodeRow where
  pattern : Word
  mask : Word
deriving DecidableEq, Repr

/-- The row of an instruction in the table of R131, or in that of R133. -/
def Instr.row : Instr → OpcodeRow
  | .add _ _ _ => ⟨0x00000033, 0xFE00707F⟩
  | .sub _ _ _ => ⟨0x40000033, 0xFE00707F⟩
  | .xor _ _ _ => ⟨0x00004033, 0xFE00707F⟩
  | .or _ _ _ => ⟨0x00006033, 0xFE00707F⟩
  | .and _ _ _ => ⟨0x00007033, 0xFE00707F⟩
  | .sll _ _ _ => ⟨0x00001033, 0xFE00707F⟩
  | .srl _ _ _ => ⟨0x00005033, 0xFE00707F⟩
  | .sra _ _ _ => ⟨0x40005033, 0xFE00707F⟩
  | .slt _ _ _ => ⟨0x00002033, 0xFE00707F⟩
  | .sltu _ _ _ => ⟨0x00003033, 0xFE00707F⟩
  | .addi _ _ _ => ⟨0x00000013, 0x0000707F⟩
  | .xori _ _ _ => ⟨0x00004013, 0x0000707F⟩
  | .ori _ _ _ => ⟨0x00006013, 0x0000707F⟩
  | .andi _ _ _ => ⟨0x00007013, 0x0000707F⟩
  | .slli _ _ _ => ⟨0x00001013, 0xFE00707F⟩
  | .srli _ _ _ => ⟨0x00005013, 0xFE00707F⟩
  | .srai _ _ _ => ⟨0x40005013, 0xFE00707F⟩
  | .slti _ _ _ => ⟨0x00002013, 0x0000707F⟩
  | .sltiu _ _ _ => ⟨0x00003013, 0x0000707F⟩
  | .lb _ _ _ => ⟨0x00000003, 0x0000707F⟩
  | .lh _ _ _ => ⟨0x00001003, 0x0000707F⟩
  | .lw _ _ _ => ⟨0x00002003, 0x0000707F⟩
  | .lbu _ _ _ => ⟨0x00004003, 0x0000707F⟩
  | .lhu _ _ _ => ⟨0x00005003, 0x0000707F⟩
  | .sb _ _ _ => ⟨0x00000023, 0x0000707F⟩
  | .sh _ _ _ => ⟨0x00001023, 0x0000707F⟩
  | .sw _ _ _ => ⟨0x00002023, 0x0000707F⟩
  | .beq _ _ _ => ⟨0x00000063, 0x0000707F⟩
  | .bne _ _ _ => ⟨0x00001063, 0x0000707F⟩
  | .blt _ _ _ => ⟨0x00004063, 0x0000707F⟩
  | .bge _ _ _ => ⟨0x00005063, 0x0000707F⟩
  | .bltu _ _ _ => ⟨0x00006063, 0x0000707F⟩
  | .bgeu _ _ _ => ⟨0x00007063, 0x0000707F⟩
  | .jal _ _ => ⟨0x0000006F, 0x0000007F⟩
  | .jalr _ _ _ => ⟨0x00000067, 0x0000707F⟩
  | .lui _ _ => ⟨0x00000037, 0x0000007F⟩
  | .auipc _ _ => ⟨0x00000017, 0x0000007F⟩
  | .mret => ⟨0x30200073, 0xFFFFFFFF⟩
  | .wfi => ⟨0x10500073, 0xFFFFFFFF⟩
  | .csrrw _ _ _ => ⟨0x00001073, 0x0000707F⟩
  | .csrrs _ _ _ => ⟨0x00002073, 0x0000707F⟩
  | .csrrc _ _ _ => ⟨0x00003073, 0x0000707F⟩
  | .csrrwi _ _ _ => ⟨0x00005073, 0x0000707F⟩
  | .csrrsi _ _ _ => ⟨0x00006073, 0x0000707F⟩
  | .csrrci _ _ _ => ⟨0x00007073, 0x0000707F⟩
  | .mul _ _ _ => ⟨0x02000033, 0xFE00707F⟩
  | .mulhu _ _ _ => ⟨0x02003033, 0xFE00707F⟩
  | .mulh _ _ _ => ⟨0x02001033, 0xFE00707F⟩
  | .mulhsu _ _ _ => ⟨0x02002033, 0xFE00707F⟩
  | .div _ _ _ => ⟨0x02004033, 0xFE00707F⟩
  | .divu _ _ _ => ⟨0x02005033, 0xFE00707F⟩
  | .rem _ _ _ => ⟨0x02006033, 0xFE00707F⟩
  | .remu _ _ _ => ⟨0x02007033, 0xFE00707F⟩
  | .fence _ _ _ _ _ => ⟨0x0000000F, 0x0000707F⟩
  | .ecall => ⟨0x00000073, 0xFFFFFFFF⟩
  | .ebreak => ⟨0x00100073, 0xFFFFFFFF⟩

end Sys2Proof
end

