-- ==== Sys2Proof/Config.lean ====
section
/-! DEFINITION. What the hardware's configuration fixes (00_scope.md R6), as plain data that State carries, and the
free values: what the spec calls a draw (00_scope.md R9), each an opaque constant of which nothing can be proved. -/

namespace Sys2Proof

/-- The kind of an address range of MEMORY_MAP (20_memory.md R92). -/
inductive RegionKind where
  | programMemory
  | dataMemory
  | device
deriving DecidableEq, Repr

/-- One range `[base, base + size)` of MEMORY_MAP with its permissions for data accesses (20_memory.md R92).
`answersError` marks a range whose bus responses carry `core_icb_rsp_err` = 1 (R95). -/
structure Region where
  base : Nat
  size : Nat
  kind : RegionKind
  readable : Bool
  writable : Bool
  answersError : Bool
deriving DecidableEq, Repr

/-- UNLISTED_ENCODING_POLICY (30_encoding.md R132). -/
inductive UnlistedPolicy where
  | refuse
  | trapCode1
deriving DecidableEq, Repr

/-- The three kinds of interrupt (60_exceptions.md R324). -/
inductive IrqKind where
  | software
  | timer
  | external
deriving DecidableEq, Repr

/-- The parameters of the hardware (00_scope.md R6). A model carries them in its state, where no step changes them, so
that a statement about every state is a statement about every configuration (DESIGN CHOICE, log 1).

IRAM_BASE and IRAM_SIZE are the base and the size of the one range of kind `programMemory`.
`mtimeTick` is MTIME_TICK: `none` is the spec's default, a draw for each gap between two steps; `some d` fixes the advance.
`irqPriority` is IRQ_PRIORITY: `[]` leaves the choice open, otherwise the first takeable kind of the list is taken. -/
structure Config where
  rve : Bool
  hasM : Bool
  mimpid : Word
  resetPc : Word
  memoryMap : List Region
  mtimeTick : Option Nat
  irqPriority : List IrqKind
  unlistedPolicy : UnlistedPolicy
deriving DecidableEq, Repr

/-- Two ranges share no address. -/
def Region.disjoint (r q : Region) : Bool :=
  decide (r.base + r.size ≤ q.base) || decide (q.base + q.size ≤ r.base)

/-- What 00_scope.md R6 and 20_memory.md R92 ask of the parameters: the reset pc is a multiple of 4, the ranges are
disjoint and lie in the 4 GB space, exactly one is program memory. -/
def Config.wf (c : Config) : Bool :=
  decide (c.resetPc.toNat % 4 = 0)
    && c.memoryMap.all (fun r => decide (r.base + r.size ≤ 2 ^ 32))
    && decide (c.memoryMap.Pairwise (fun r q => r.disjoint q = true))
    && decide ((c.memoryMap.filter (fun r => r.kind == .programMemory)).length = 1)

/-- The configuration of `State.reset`: RV32IM, and for what the spec leaves open the choice its own examples make
(95_test_vectors.md, conventions): program memory at 0 to 0xFFF, RAM at 0x1000 to 0x1FFF, nothing else, RESET_PC 0.
DESIGN CHOICE, unsafe where a claim is about `State.reset` alone (log 3, log 4). -/
def Config.default : Config :=
  { rve := false
    hasM := true
    mimpid := 0
    resetPc := 0
    memoryMap :=
      [ { base := 0x0000, size := 0x1000, kind := .programMemory, readable := true, writable := true, answersError := false },
        { base := 0x1000, size := 0x1000, kind := .dataMemory, readable := true, writable := true, answersError := false } ]
    mtimeTick := none
    irqPriority := []
    unlistedPolicy := .refuse }

/-- FREE VALUE. The byte at an address that neither the launch nor a store has written (20_memory.md R86, R92; log 5). -/
opaque Config.initialByte : Nat → Byte

/-- FREE VALUE. What a read of a write-only CSR returns (10_state.md R34; log 13). -/
opaque Config.writeOnlyCsr : Nat → Word

/-- FREE VALUE. What a device answers to a read (20_memory.md R91; log 14). -/
opaque Config.deviceAnswer : Nat → Word

/-- FREE VALUE. `mtval` after the exception's entry (60_exceptions.md R344; log 12). -/
opaque Config.exceptionMtval : Nat → Word

/-- FREE VALUE. How far `mtime` advances before one step (60_exceptions.md R362; log 9). -/
opaque Config.mtimeAdvance : Nat → Nat

/-- FREE VALUE. Which of several takeable interrupts is taken (60_exceptions.md R335; log 11). -/
opaque Config.irqChoice : Nat → Nat

end Sys2Proof
end

