-- ==== Sys2Proof/Machine/State.lean ====
section
/-! DEFINITION. The state of the machine (10_state.md R61), why a step can stop, and the state after reset. -/

namespace Sys2Proof.Machine

/-- Memory: the bytes that the launch or a store has written, as (address, byte) pairs with strictly rising addresses.
An unlisted address has no written byte and reads as the free value of log 5, so no entry equals what an unlisted
address reads as, and a write never removes an entry. -/
abbrev Memory := List Host.Cell

/-- The canonical form of a memory: addresses strictly rising, all inside the 32-bit space (20_memory.md R80). -/
abbrev Memory.wf (m : Memory) : Prop :=
  m.Pairwise (fun c d => c.1 < d.1) ∧ ∀ c ∈ m, c.1 < 2 ^ 32

/-- The control and status registers that hold state (10_state.md R33, R40 to R47, R50, R52, R53, R55). The constant
registers, `mip` and the three write-only registers have no storage here: `State.csrRead` computes them. -/
structure Csrs where
  /-- mstatus.MIE (R33). -/
  mie : Bool
  /-- mstatus.MPIE (R33). -/
  mpie : Bool
  /-- mie.MSIE (R42). -/
  msie : Bool
  /-- mie.MTIE (R42). -/
  mtie : Bool
  /-- mie.MEIE (R42). -/
  meie : Bool
  /-- mtvec.BASE, bits 31:2 of the vector table's address (R43). -/
  mtvecBase : BitVec 30
  /-- mscratch (R44). -/
  mscratch : Word
  /-- mepc (R45). -/
  mepc : Word
  /-- mcause (R46). -/
  mcause : Word
  /-- mtval (R47). -/
  mtval : Word
  /-- The 64-bit instruction counter, CSRs minstret and minstreth (R40). -/
  minstret : BitVec 64
  /-- The 64-bit timer counter, CSRs mtime and mtimeh (R52). -/
  mtime : BitVec 64
  /-- The 64-bit compare value, CSRs mtimecmp and mtimecmph (R53). -/
  mtimecmp : BitVec 64
  /-- mcctr[4:0] (R50). -/
  mcctr : BitVec 5
  /-- msip_pending: the request made through CSR msip (R55). -/
  msipPending : Bool
deriving DecidableEq, Repr

/-- What the PLIC sees of the core (60_exceptions.md R366, R367, R370). -/
inductive PlicSignal where
  /-- A pulse on `ex_trap_ready_o`: the request with this id has been accepted. -/
  | accepted (id : SourceId)
  /-- `ExtComplete(id)`: a pulse on `ex_trap_cplet_o` with the id on `ex_trap_cplet_id_o`. -/
  | completed (id : SourceId)
deriving DecidableEq, Repr

/-- What the environment does before one step of the hart (00_scope.md R11, R13; log 8). -/
structure Input where
  /-- The PLIC raises a request with this id (60_exceptions.md R367, R371); over a held request it changes nothing. -/
  plicRaise : Option SourceId
  /-- The core accepts the held request, if it can (60_exceptions.md R367). -/
  accept : Bool
  /-- The host holds `halt_req_i` high (60_exceptions.md R372). -/
  halt : Bool
  /-- CORE_EXCEPTION_TRIGGER holds at this step (60_exceptions.md R322; log 12). -/
  coreError : Bool
deriving DecidableEq, Repr

/-- An environment that does nothing; also what a step reads when `inputs` is empty. -/
def Input.quiet : Input :=
  { plicRaise := none, accept := false, halt := false, coreError := false }

/-- The causes of a trap (60_exceptions.md R320). -/
inductive TrapCause where
  | coreException
  | software
  | timer
  | external (id : SourceId)
deriving DecidableEq, Repr

/-- Why a run ends or can never go on. -/
inductive Fault where
  /-- Raised by a data access to an address in no range of MEMORY_MAP, or in none that permits the access: the bus never
  answers and the hart is stuck for good (20_memory.md R94). Safe: the model stops where the hardware may go on. -/
  | unmappedAddress (address : Word)
  /-- Raised by every step after a write of 1 to `mends`: the run is over (60_exceptions.md R375). Safe for the
  simulated hardware the rule speaks of; outside simulation the hardware may run on. -/
  | simulationEnded
deriving DecidableEq, Repr

/-- What the spec gives no meaning to: its outcome `refused(reason)` (00_scope.md R12), under the spec's own reasons.
Each is safe: the hardware does something, the model declines to say what. -/
inductive Refusal where
  /-- Raised by `exec` for an instruction that has no meaning yet. -/
  | notModelled (mnemonic : String)
  /-- Raised by the fetch: the pc is not a multiple of 4 (20_memory.md R90, 10_state.md R27). -/
  | misalignedPc
  /-- Raised by the fetch: the word is not inside the program memory (20_memory.md R88). -/
  | fetchOutsideProgramMemory
  /-- Raised by the fetch: a store since the launch has written a byte of the word (20_memory.md R100). -/
  | fetchOfModifiedCode
  /-- Raised for a word outside the instruction list at an address, when UNLISTED_ENCODING_POLICY is refuse
  (30_encoding.md R132, R133, R135). -/
  | unlistedEncoding (word address : Word)
  /-- Raised by the decoding: with RVE a register operand is 16 or more (30_encoding.md R134, 10_state.md R23). -/
  | rveRegisterOutOfRange
  /-- Raised by a load or store whose address is not a multiple of its width (20_memory.md R89). -/
  | misalignedDataAccess
  /-- Raised by a load or store that the bus answers with an error (20_memory.md R95). -/
  | busErrorResponse
  /-- Raised by a CSR instruction on an address outside the 23 registers (10_state.md R32). -/
  | unimplementedCsr
  /-- Raised by a CSR write to `mip` (10_state.md R41). -/
  | writeToMip
  /-- Raised by a CSR write of a value other than 0 or 1 to `msip` (60_exceptions.md R328). -/
  | msipValue
  /-- Raised by a CSR write of a value above 255 to `mprints` (60_exceptions.md R374). -/
  | mprintsValue
  /-- Raised by a CSR write of a value other than 1 to `mends` (60_exceptions.md R375). -/
  | mendsValue
  /-- Raised by a set or clear form that would write `msip`, `mprints` or `mends` (48_csr.md R277). -/
  | setClearOnWriteOnlyCsr
  /-- Raised by `jalr` when bit 0 of the target is 1 (45_jump.md R246). -/
  | jalrOddTarget
  /-- Raised when an interrupt would be taken inside a handler (60_exceptions.md R350). -/
  | nestedInterrupt
  /-- Raised when the PLIC presents an id of 16 or more (60_exceptions.md R325). -/
  | externalIdOutOfRange
  /-- Raised by every step after a software reset was requested: the run stops there (60_exceptions.md R373). -/
  | softResetRequested
deriving DecidableEq, Repr

/-- The whole state. The fields up to `softResetReq` are the spec's (10_state.md R61; `config` 00_scope.md R6;
`storedCode` 20_memory.md R100; `extRequest` and `plicSignals` 60_exceptions.md R366, R367, R370); `inputs` and
`freeIndex` are the model's own (log 8, log 23). -/
structure State where
  config : Config
  /-- x0 to x31; every access goes through `readReg` and `writeReg`, which make x0 the constant 0 (R21). -/
  regs : Vector Word 32
  pc : Word
  csrs : Csrs
  mem : Memory
  /-- Addresses inside the program memory that a store has written since the launch, strictly rising. -/
  storedCode : List Nat
  extPending : Option SourceId
  extInService : Option SourceId
  /-- The request that the PLIC holds on its wires; after reset none (DESIGN CHOICE, log 32). -/
  extRequest : Option SourceId
  /-- Oldest first; after reset empty (DESIGN CHOICE, log 32). -/
  plicSignals : List PlicSignal
  trapDepth : Nat
  asleep : Bool
  /-- Oldest first. -/
  simOutput : List Byte
  simEnded : Bool
  softResetReq : Bool
  /-- What the environment will do, one entry a step, the next one first; quiet when there is none left. -/
  inputs : List Input
  /-- The argument of the next free value; it grows, so that no draw repeats an earlier one's argument. -/
  freeIndex : Nat
deriving DecidableEq, Repr

/-- The control registers after reset (10_state.md R54, R61, 70_reset_and_hazards.md R391). -/
def Csrs.reset : Csrs :=
  { mie := false, mpie := false, msie := false, mtie := false, meie := false
    mtvecBase := 0, mscratch := 0, mepc := 0, mcause := 0, mtval := 0
    minstret := 0, mtime := 0, mtimecmp := 0xFFFFFFFFFFFFFFFF, mcctr := 0, msipPending := false }

/-- The state after reset under any configuration, with any values in x1 to x31 (10_state.md R24), any program image
(20_memory.md R92) and any behaviour of the environment: what the spec leaves to the launch is an argument. R61 lists no
value for what the model keeps of the PLIC: that no request is held and none has been signalled is DESIGN CHOICE (log 32). -/
def State.launch (config : Config) (regs : Vector Word 32) (image : Memory) (inputs : List Input) : State :=
  { config := config, regs := regs.set 0 0, pc := config.resetPc, csrs := Csrs.reset, mem := image, storedCode := []
    extPending := none, extInService := none, extRequest := none, plicSignals := []
    trapDepth := 0, asleep := false, simOutput := [], simEnded := false, softResetReq := false
    inputs := inputs, freeIndex := 0 }

/-- The machine right after reset: the configuration of the spec's own examples, x1 to x31 at 0 (DESIGN CHOICE, unsafe,
log 2), no byte of memory written, a quiet environment (log 8). -/
def State.reset : State :=
  State.launch Config.default (Vector.replicate 32 0) [] []

end Sys2Proof.Machine
end

