-- ==== Sys2Proof/Machine/Ops.lean ====
section
/-! DEFINITION. The named operations over registers, memory and control registers, taking a trap and returning from
one, the environment's moves, and the selection of an interrupt. -/

namespace Sys2Proof.Machine

/-- The outcome type of every meaning. -/
abbrev Result := Host.Outcome State Fault Refusal

/-- Go on with the next state; a stop stays that stop. -/
def andThen (r : Result) (k : State → Result) : Result :=
  match r with
  | .next s => k s
  | .fault f => .fault f
  | .refused x => .refused x

/-! ### General registers and the pc (10_state.md R20, R21, R26) -/

/-- `x[r]`: x0 is the constant 0 (R21). -/
def State.readReg (s : State) (r : RegNum) : Word :=
  if r = 0#5 then 0#32 else s.regs[r.toNat]

/-- `x[r] <- v`: a write to x0 is ignored (R21). -/
def State.writeReg (s : State) (r : RegNum) (v : Word) : State :=
  if r = 0#5 then s else { s with regs := s.regs.set r.toNat v }

/-- `pc <- t`. -/
def State.setPc (s : State) (t : Word) : State := { s with pc := t }

/-- The end of an instruction that is no taken branch, jump, `mret` or trap: `pc <- pc + 4` modulo 2^32 (R26, R27). -/
def State.advance (s : State) : State := s.setPc (s.pc + 4)

/-- A free value has been drawn. -/
def State.drawn (s : State) : State := { s with freeIndex := s.freeIndex + 1 }

/-! ### Memory (20_memory.md R84 to R95) -/

/-- The byte written at an address, if any. -/
def memLookup : Memory → Nat → Option Byte
  | [], _ => none
  | c :: m, a => if c.1 = a then some c.2 else memLookup m a

/-- Write one byte, keeping the addresses strictly rising. -/
def memInsert : Memory → Nat → Byte → Memory
  | [], a, b => [(a, b)]
  | c :: m, a, b =>
    if a < c.1 then (a, b) :: c :: m
    else if a = c.1 then (a, b) :: m
    else c :: memInsert m a b

/-- `M[a]`: the byte last written there, or the launch image's byte, or a free value that never changes (R86). -/
def State.byteAt (s : State) (a : Nat) : Byte :=
  match memLookup s.mem a with
  | some b => b
  | none => Config.initialByte a

/-- The three access widths (R91). -/
inductive Width where
  | byte
  | half
  | word
deriving DecidableEq, Repr

/-- How many bytes an access moves. -/
def widthBytes : Width → Nat
  | .byte => 1
  | .half => 2
  | .word => 4

/-- `MemRead` in a memory range: the bytes little-endian (R84, R86), the bits above the width zero. -/
def State.readBytes (s : State) (a : Nat) : Width → Word
  | .byte => (s.byteAt a).setWidth 32
  | .half => (s.byteAt (a + 1) ++ s.byteAt a).setWidth 32
  | .word => s.byteAt (a + 3) ++ s.byteAt (a + 2) ++ s.byteAt (a + 1) ++ s.byteAt a

/-- `M[a+i] <- v[8i+7:8i]` for the `n` lowest bytes of `v` (R87). -/
def memWriteBytes (m : Memory) (a : Nat) (v : Word) : Nat → Memory
  | 0 => m
  | n + 1 => memInsert (memWriteBytes m a v n) (a + n) (byteOfWord v n)

/-- Add an address to a strictly rising list. -/
def addrInsert : List Nat → Nat → List Nat
  | [], a => [a]
  | c :: l, a =>
    if a < c then a :: c :: l
    else if a = c then c :: l
    else c :: addrInsert l a

/-- Add the addresses `a` to `a + n - 1`. -/
def addrInsertRange (l : List Nat) (a : Nat) : Nat → List Nat
  | 0 => l
  | n + 1 => addrInsert (addrInsertRange l a n) (a + n)

/-- The `n` bytes at `a` lie in the range. -/
def Region.covers (r : Region) (a n : Nat) : Bool :=
  decide (r.base ≤ a) && decide (a + n ≤ r.base + r.size)

/-- The range of MEMORY_MAP in which an `n`-byte data access may be made, if any (R86, R87, R92, R94). -/
def Config.dataRegion (c : Config) (a n : Nat) (write : Bool) : Option Region :=
  c.memoryMap.find? (fun r => Region.covers r a n && (if write then r.writable else r.readable))

/-- The `n` bytes at `a` lie in the program memory (R88, R92). -/
def Config.inProgramMemory (c : Config) (a n : Nat) : Bool :=
  c.memoryMap.any (fun r => r.kind == .programMemory && Region.covers r a n)

/-- A data access: alignment first (R89), then the map (R94), then the bus's answer (R95); `k` goes on in the range
reached. In each stop nothing has changed (42_load.md R206, 43_store.md R218). -/
def State.withAccess (s : State) (ea : Word) (w : Width) (write : Bool) (k : Region → Result) : Result :=
  if ea.toNat % widthBytes w ≠ 0 then .refused .misalignedDataAccess
  else
    match Config.dataRegion s.config ea.toNat (widthBytes w) write with
    | none => .fault (.unmappedAddress ea)
    | some r => if r.answersError then .refused .busErrorResponse else k r

/-- Sign extension or zero extension of the low bits that an access of a width reads (42_load.md R200 to R204). -/
def extendRead (w : Width) (signed : Bool) (v : Word) : Word :=
  match w, signed with
  | .byte, true => (v.setWidth 8).signExtend 32
  | .byte, false => (v.setWidth 8).setWidth 32
  | .half, true => (v.setWidth 16).signExtend 32
  | .half, false => (v.setWidth 16).setWidth 32
  | .word, _ => v

/-- The common part of the five loads (42_load.md R206, R205): the access is made also when `rd` is x0; a device
answers with a free value (20_memory.md R91). -/
def State.load (s : State) (rd : RegNum) (ea : Word) (w : Width) (signed : Bool) : Result :=
  s.withAccess ea w false fun r =>
    match r.kind with
    | .device =>
      .next ((s.drawn.writeReg rd (extendRead w signed (Config.deviceAnswer s.freeIndex))).advance)
    | .programMemory | .dataMemory =>
      .next ((s.writeReg rd (extendRead w signed (s.readBytes ea.toNat w))).advance)

/-- `MemWrite` in a memory range (20_memory.md R87); in the program memory the addresses are remembered (R100). -/
def State.writeBytes (s : State) (kind : RegionKind) (a : Nat) (v : Word) (n : Nat) : State :=
  { s with
    mem := memWriteBytes s.mem a v n
    storedCode := if kind = .programMemory then addrInsertRange s.storedCode a n else s.storedCode }

/-- The common part of the three stores (43_store.md R218); a device write changes no architectural state
(20_memory.md R91). -/
def State.store (s : State) (ea : Word) (w : Width) (v : Word) : Result :=
  s.withAccess ea w true fun r =>
    match r.kind with
    | .device => .next s.advance
    | .programMemory | .dataMemory => .next ((s.writeBytes r.kind ea.toNat v (widthBytes w)).advance)

/-- `Fetch(pc)` (20_memory.md R88, R90, R100): the word at the pc, or the reason there is none. -/
def State.fetch (s : State) : Except Refusal Word :=
  let a := s.pc.toNat
  if a % 4 ≠ 0 then .error .misalignedPc
  else if Config.inProgramMemory s.config a 4 = false then .error .fetchOutsideProgramMemory
  else if [a, a + 1, a + 2, a + 3].any (fun b => s.storedCode.contains b) then .error .fetchOfModifiedCode
  else .ok (wordOfBytes (s.byteAt a) (s.byteAt (a + 1)) (s.byteAt (a + 2)) (s.byteAt (a + 3)))

/-! ### Interrupts (60_exceptions.md R324 to R335) -/

/-- mip.MTIP: the comparison of the two 64-bit values, whatever `mcctr[2]` is (R329). -/
def State.mtip (s : State) : Bool := decide (s.csrs.mtimecmp.toNat ≤ s.csrs.mtime.toNat)

/-- mip.MEIP: a request has been accepted and waits (R330). -/
def State.meip (s : State) : Bool := s.extPending.isSome

/-- The Trap code of a cause (R320). -/
def trapCode : TrapCause → Nat
  | .coreException => 1
  | .software => 2
  | .timer => 3
  | .external id => 4 + id.toNat

/-- `mcause` of a cause: bit 31 tells an interrupt from the exception, bits 30:0 are the Trap code (R343). -/
def trapMcause (c : TrapCause) : Word :=
  match c with
  | .coreException => BitVec.ofNat 32 (trapCode c)
  | .software | .timer | .external _ => 0x80000000#32 ||| BitVec.ofNat 32 (trapCode c)

/-- The external interrupt, when it is pending and enabled in `mie` (R330, R331). -/
def State.enabledExternal (s : State) : List TrapCause :=
  match s.extPending with
  | some id => if s.csrs.meie then [.external id] else []
  | none => []

/-- The interrupts that are takeable: pending, enabled in `mie`, and mstatus.MIE = 1 (R331, R334). -/
def State.takeable (s : State) : List TrapCause :=
  if s.csrs.mie then
    (if s.csrs.msipPending && s.csrs.msie then [TrapCause.software] else [])
      ++ (if s.mtip && s.csrs.mtie then [TrapCause.timer] else [])
      ++ s.enabledExternal
  else []

/-- The kind of an interrupt; the exception is of no kind. -/
def trapKind : TrapCause → Option IrqKind
  | .coreException => none
  | .software => some .software
  | .timer => some .timer
  | .external _ => some .external

/-- The first of the causes whose kind stands first in a priority list. -/
def firstByPriority (causes : List TrapCause) : List IrqKind → Option TrapCause
  | [] => none
  | k :: ks =>
    match causes.find? (fun c => trapKind c == some k) with
    | some c => some c
    | none => firstByPriority causes ks

/-- Which takeable interrupt is taken (R335): the parameter's order where it names a takeable kind, else any of them, a
free choice where there are several. -/
def State.chooseInterrupt (s : State) : Option TrapCause :=
  match s.takeable with
  | [] => none
  | [c] => some c
  | c :: cs =>
    match firstByPriority (c :: cs) s.config.irqPriority with
    | some d => some d
    | none => some ((c :: cs).getD (Config.irqChoice s.freeIndex % (c :: cs).length) c)

/-! ### Taking a trap and returning from one (60_exceptions.md R340 to R344, R369, R370; 47_trap_ret_wfi.md R265) -/

/-- The byte address of the vector table: `mtvec` with its two mode bits cleared (R341, R93). -/
def State.vectorBase (s : State) : Word := s.csrs.mtvecBase ++ 0#2

/-- Trap entry with a cause (R340, R341, R343, R344, R369): one indivisible step on the values from before it. It is not
an instruction: no general register, no memory, no `mie`, no `minstret` changes. -/
def State.takeTrap (s : State) (c : TrapCause) : State :=
  { s with
    csrs := { s.csrs with
      mpie := s.csrs.mie
      mie := false
      mepc := s.pc
      mcause := trapMcause c
      mtval :=
        match c with
        | .coreException => Config.exceptionMtval s.freeIndex
        | .software | .timer | .external _ => 0 }
    pc := s.vectorBase + BitVec.ofNat 32 (4 * trapCode c)
    trapDepth := s.trapDepth + 1
    asleep := false
    extPending :=
      match c with
      | .external _ => none
      | .coreException | .software | .timer => s.extPending
    extInService :=
      match c with
      | .external id => some id
      | .coreException | .software | .timer => s.extInService
    freeIndex :=
      match c with
      | .coreException => s.freeIndex + 1
      | .software | .timer | .external _ => s.freeIndex }

/-- The return from a trap (47_trap_ret_wfi.md R265, 60_exceptions.md R348, R370): all right-hand sides are the values
from before; `MPIE` becomes 0. -/
def State.trapReturn (s : State) : State :=
  { s with
    csrs := { s.csrs with mie := s.csrs.mpie, mpie := false }
    pc := s.csrs.mepc
    trapDepth := s.trapDepth - 1
    extInService := none
    plicSignals :=
      match s.extInService with
      | some id => s.plicSignals ++ [.completed id]
      | none => s.plicSignals }

/-- A word outside the instruction list (30_encoding.md R132, R133, R135): refused, or the exception of Trap code 1 under
the other value of UNLISTED_ENCODING_POLICY. -/
def State.unlisted (s : State) (w : Word) : Result :=
  match s.config.unlistedPolicy with
  | .refuse => .refused (.unlistedEncoding w s.pc)
  | .trapCode1 => .next (s.takeTrap .coreException)

/-! ### Control registers (48_csr.md R275 to R277; 10_state.md R30 to R54) -/

/-- A word with one bit. -/
def bitAt (b : Bool) (k : Nat) : Word := if b then BitVec.ofNat 32 (2 ^ k) else 0

/-- The 23 implemented addresses (10_state.md R54). -/
def csrAddresses : List CsrAddr :=
  [0x300, 0x301, 0x304, 0x305, 0x340, 0x341, 0x342, 0x343, 0x344, 0x345, 0x346, 0x347,
   0xB02, 0xB03, 0xB04, 0xB82, 0xB83, 0xB84, 0xB88, 0xF11, 0xF12, 0xF13, 0xF14]

/-- Whether a CSR address is implemented (10_state.md R32). -/
def csrImplemented (a : CsrAddr) : Bool := csrAddresses.contains a

/-- The write-only registers `msip`, `mprints`, `mends` (10_state.md R48, R49, R51). -/
def csrWriteOnly (a : CsrAddr) : Bool := a == 0x345#12 || a == 0x346#12 || a == 0x347#12

/-- `CSRRead(a)` for an implemented address (R275); a write-only register reads as a free value (10_state.md R34). -/
def State.csrRead (s : State) (a : CsrAddr) : Word :=
  match a with
  | 0x300#12 => bitAt s.csrs.mpie 7 ||| bitAt s.csrs.mie 3
  | 0x301#12 => 0x40001100
  | 0x304#12 => bitAt s.csrs.meie 11 ||| bitAt s.csrs.mtie 7 ||| bitAt s.csrs.msie 3
  | 0x305#12 => s.csrs.mtvecBase ++ 1#2
  | 0x340#12 => s.csrs.mscratch
  | 0x341#12 => s.csrs.mepc
  | 0x342#12 => s.csrs.mcause
  | 0x343#12 => s.csrs.mtval
  | 0x344#12 => bitAt s.meip 11 ||| bitAt s.mtip 7 ||| bitAt s.csrs.msipPending 3
  | 0xB02#12 => s.csrs.minstret.extractLsb' 0 32
  | 0xB82#12 => s.csrs.minstret.extractLsb' 32 32
  | 0xB03#12 => s.csrs.mtime.extractLsb' 0 32
  | 0xB83#12 => s.csrs.mtime.extractLsb' 32 32
  | 0xB04#12 => s.csrs.mtimecmp.extractLsb' 0 32
  | 0xB84#12 => s.csrs.mtimecmp.extractLsb' 32 32
  | 0xB88#12 => s.csrs.mcctr.setWidth 32
  | 0xF11#12 => 0x00114514
  | 0xF12#12 => 0x00000001
  | 0xF13#12 => s.config.mimpid
  | 0xF14#12 => 0x00000000
  | _ => Config.writeOnlyCsr s.freeIndex

/-- A 64-bit register with its low half replaced. -/
def withLow (x : BitVec 64) (v : Word) : BitVec 64 := x.extractLsb' 32 32 ++ v

/-- A 64-bit register with its high half replaced. -/
def withHigh (x : BitVec 64) (v : Word) : BitVec 64 := v ++ x.extractLsb' 0 32

/-- `CSRWrite(a, v)` (R276). A read-only register ignores the write and raises nothing (10_state.md R31). -/
def State.csrWrite (s : State) (a : CsrAddr) (v : Word) : Result :=
  match a with
  | 0x300#12 => .next { s with csrs := { s.csrs with mie := v.getLsbD 3, mpie := v.getLsbD 7 } }
  | 0x301#12 | 0xF11#12 | 0xF12#12 | 0xF13#12 | 0xF14#12 => .next s
  | 0x304#12 =>
    .next { s with csrs := { s.csrs with msie := v.getLsbD 3, mtie := v.getLsbD 7, meie := v.getLsbD 11 } }
  | 0x305#12 => .next { s with csrs := { s.csrs with mtvecBase := v.extractLsb' 2 30 } }
  | 0x340#12 => .next { s with csrs := { s.csrs with mscratch := v } }
  | 0x341#12 => .next { s with csrs := { s.csrs with mepc := v } }
  | 0x342#12 => .next { s with csrs := { s.csrs with mcause := v } }
  | 0x343#12 => .next { s with csrs := { s.csrs with mtval := v } }
  | 0x344#12 => .refused .writeToMip
  | 0x345#12 =>
    if v = 1#32 then .next { s with csrs := { s.csrs with msipPending := true } }
    else if v = 0#32 then .next { s with csrs := { s.csrs with msipPending := false } }
    else .refused .msipValue
  | 0x346#12 =>
    if v.extractLsb' 8 24 = 0#24 then .next { s with simOutput := s.simOutput ++ [v.setWidth 8] }
    else .refused .mprintsValue
  | 0x347#12 => if v = 1#32 then .next { s with simEnded := true } else .refused .mendsValue
  | 0xB02#12 => .next { s with csrs := { s.csrs with minstret := withLow s.csrs.minstret v } }
  | 0xB82#12 => .next { s with csrs := { s.csrs with minstret := withHigh s.csrs.minstret v } }
  | 0xB03#12 => .next { s with csrs := { s.csrs with mtime := withLow s.csrs.mtime v } }
  | 0xB83#12 => .next { s with csrs := { s.csrs with mtime := withHigh s.csrs.mtime v } }
  | 0xB04#12 => .next { s with csrs := { s.csrs with mtimecmp := withLow s.csrs.mtimecmp v } }
  | 0xB84#12 => .next { s with csrs := { s.csrs with mtimecmp := withHigh s.csrs.mtimecmp v } }
  | 0xB88#12 =>
    .next { s with
      csrs := { s.csrs with mcctr := v.setWidth 5 }
      softResetReq := s.softResetReq || v.getLsbD 3 }
  | _ => .refused .unimplementedCsr

/-- How a CSR form combines the old value and its operand (R278 to R283). -/
inductive CsrOp where
  | write
  | set
  | clear
deriving DecidableEq, Repr

/-- The value a CSR form writes. -/
def csrNewValue : CsrOp → Word → Word → Word
  | .write, _, v => v
  | .set, old, v => old ||| v
  | .clear, old, v => old &&& ~~~v

/-- The common part of the six CSR instructions (R277, R284), the operand already read: `reads` and `writes` say which
halves the form has. The read and the write are indivisible. -/
def State.csrAccess (s : State) (op : CsrOp) (rd : RegNum) (a : CsrAddr) (v : Word) (reads writes : Bool) : Result :=
  if csrImplemented a = false then .refused .unimplementedCsr
  else if writes && csrWriteOnly a && !(op == .write) then .refused .setClearOnWriteOnlyCsr
  else
    let old := s.csrRead a
    let s1 := if reads && csrWriteOnly a then s.drawn else s
    andThen (if writes then s1.csrWrite a (csrNewValue op old v) else .next s1) fun s2 =>
      .next ((if reads then s2.writeReg rd old else s2).advance)

/-! ### The environment between two steps (00_scope.md R13; 60_exceptions.md R362, R367, R372) -/

/-- The input that the next step reads. -/
def State.nextInput (s : State) : Input := s.inputs.headD Input.quiet

/-- The timer: while `mcctr[2]` = 1, `mtime` advances by MTIME_TICK, by default a free number (R362). -/
def State.tick (s : State) : State :=
  if s.csrs.mcctr.getLsbD 2 then
    { s with csrs := { s.csrs with
        mtime := s.csrs.mtime + BitVec.ofNat 64 (s.config.mtimeTick.getD (Config.mtimeAdvance s.freeIndex)) } }
  else s

/-- The PLIC raises a request, unless it still holds one (R367). -/
def State.plicRaises (s : State) (id : Option SourceId) : State :=
  match s.extRequest with
  | some _ => s
  | none => { s with extRequest := id }

/-- The core accepts the held request when nothing is pending; the PLIC then withdraws it (R367). -/
def State.acceptRequest (s : State) : State :=
  match s.extRequest, s.extPending with
  | some id, none =>
    { s with extPending := some id, extRequest := none, plicSignals := s.plicSignals ++ [.accepted id] }
  | _, _ => s

/-- The PLIC presents an id for which there is no Trap code (R325). -/
def State.badExternalId (s : State) : Bool :=
  match s.extRequest with
  | some id => decide (16 ≤ id.toNat)
  | none => false

/-- Everything the environment does before a step, up to the acceptance: the input is used up, the timer ticks, the PLIC
may raise a request. Free values of the coming step have an argument of their own. -/
def State.environment (s : State) : State :=
  let t := { s.tick with inputs := s.inputs.tail, freeIndex := s.freeIndex + 1 }
  t.plicRaises s.nextInput.plicRaise

/-! ### The instruction counter (60_exceptions.md R360) -/

/-- Whether an instruction that completes is counted: not when it writes the counter itself, and never for the unlisted
instructions, which do not complete. -/
def countsInMinstret : Instr → Bool
  | .csrrw _ a _ | .csrrwi _ a _ => !(a == 0xB02#12 || a == 0xB82#12)
  | .csrrs _ a rs1 | .csrrc _ a rs1 => !((a == 0xB02#12 || a == 0xB82#12) && !(rs1 == 0#5))
  | .csrrsi _ a uimm | .csrrci _ a uimm => !((a == 0xB02#12 || a == 0xB82#12) && !(uimm == 0#5))
  | .fence _ _ _ _ _ | .ecall | .ebreak => false
  | .add _ _ _ | .sub _ _ _ | .xor _ _ _ | .or _ _ _ | .and _ _ _
  | .sll _ _ _ | .srl _ _ _ | .sra _ _ _ | .slt _ _ _ | .sltu _ _ _
  | .addi _ _ _ | .xori _ _ _ | .ori _ _ _ | .andi _ _ _
  | .slli _ _ _ | .srli _ _ _ | .srai _ _ _ | .slti _ _ _ | .sltiu _ _ _
  | .lb _ _ _ | .lh _ _ _ | .lw _ _ _ | .lbu _ _ _ | .lhu _ _ _
  | .sb _ _ _ | .sh _ _ _ | .sw _ _ _
  | .beq _ _ _ | .bne _ _ _ | .blt _ _ _ | .bge _ _ _ | .bltu _ _ _ | .bgeu _ _ _
  | .jal _ _ | .jalr _ _ _ | .lui _ _ | .auipc _ _ | .mret | .wfi
  | .mul _ _ _ | .mulhu _ _ _ | .mulh _ _ _ | .mulhsu _ _ _
  | .div _ _ _ | .divu _ _ _ | .rem _ _ _ | .remu _ _ _ => true

/-- What the counter does after an instruction that completed: `counting` is `mcctr[1]` from before it (R360). -/
def State.retire (s : State) (i : Instr) (counting : Bool) : State :=
  if counting && countsInMinstret i then
    { s with csrs := { s.csrs with minstret := s.csrs.minstret + 1 } }
  else s

end Sys2Proof.Machine
end

