-- ==== Sys2Proof/Machine/Operands.lean ====
section
/-! DEFINITION. The operand forms: sign-extended constants, shift amounts, effective addresses, targets
(30_encoding.md R128; 41_alu_imm.md R189; 42_load.md R206; 44_branch.md R237). -/

namespace Sys2Proof.Machine

/-- `sext_12`: the constant of the I and S formats (R128). -/
def sextImm (imm : BitVec 12) : Word := imm.signExtend 32

/-- `{imm20, 12'b0}`: the constant of the U format (R128). -/
def upperImm (imm20 : BitVec 20) : Word := imm20 ++ 0#12

/-- `zext_5`: the constant of the CSR immediate forms (R128). -/
def zextUimm (uimm : BitVec 5) : Word := uimm.setWidth 32

/-- The shift amount of `sll`, `srl`, `sra`: the low five bits of `x[rs2]` (40_alu_reg.md R165). -/
def shiftAmount (v : Word) : Nat := (v.extractLsb' 0 5).toNat

/-- The effective address of a load or store, modulo 2^32: the one addressing mode (42_load.md R206, 43_store.md R218). -/
def State.effectiveAddress (s : State) (rs1 : RegNum) (imm : BitVec 12) : Word :=
  s.readReg rs1 + sextImm imm

/-- The target of a taken branch, modulo 2^32 (44_branch.md R237). -/
def State.branchTarget (s : State) (offset : BitVec 13) : Word := s.pc + offset.signExtend 32

/-- The target of `jal`, modulo 2^32 (45_jump.md R245). -/
def State.jumpTarget (s : State) (offset : BitVec 21) : Word := s.pc + offset.signExtend 32

/-- An instruction whose only effect is a result in `rd` (40_alu_reg.md R170, 41_alu_imm.md R189, 49_m_ext.md R308). -/
def State.result (s : State) (rd : RegNum) (v : Word) : Result := .next ((s.writeReg rd v).advance)

end Sys2Proof.Machine
end

