-- ==== Sys2Proof/Machine/Flags.lean ====
section
/-! DEFINITION. The hardware has no flags (10_state.md R29): a comparison writes 0 or 1 to a register or decides a
branch. These are the comparisons, all of them exact and none computed from a wrapping subtraction (40_alu_reg.md R168). -/

namespace Sys2Proof.Machine

/-- `<s`: the two's-complement readings compared (00_scope.md R8). -/
def lessSigned (a b : Word) : Bool := decide (a.toInt < b.toInt)

/-- `<u`: the unsigned readings compared (00_scope.md R8). -/
def lessUnsigned (a b : Word) : Bool := decide (a.toNat < b.toNat)

/-- The 32-bit value 1 or 0 of a comparison (40_alu_reg.md R168). -/
def boolWord (c : Bool) : Word := if c then 1 else 0

/-- The common part of the six branches (44_branch.md R237): no register is written. -/
def State.branchIf (s : State) (taken : Bool) (offset : BitVec 13) : Result :=
  .next (if taken then s.setPc (s.branchTarget offset) else s.advance)

end Sys2Proof.Machine
end

