-- ==== Sys2Proof/Machine/AluImm.lean ====
section
/-! DEFINITION. Register-immediate operations (41_alu_imm.md R180 to R189). -/

namespace Sys2Proof.Machine

/-- R180. -/
def execAddi (rd rs1 : RegNum) (imm : BitVec 12) (s : State) : Result := s.result rd (s.readReg rs1 + sextImm imm)

/-- R181. -/
def execXori (rd rs1 : RegNum) (imm : BitVec 12) (s : State) : Result := s.result rd (s.readReg rs1 ^^^ sextImm imm)

/-- R182. -/
def execOri (rd rs1 : RegNum) (imm : BitVec 12) (s : State) : Result := s.result rd (s.readReg rs1 ||| sextImm imm)

/-- R183. -/
def execAndi (rd rs1 : RegNum) (imm : BitVec 12) (s : State) : Result := s.result rd (s.readReg rs1 &&& sextImm imm)

/-- R184. -/
def execSlli (rd rs1 : RegNum) (shamt : BitVec 5) (s : State) : Result := s.result rd (s.readReg rs1 <<< shamt.toNat)

/-- R185. -/
def execSrli (rd rs1 : RegNum) (shamt : BitVec 5) (s : State) : Result := s.result rd (s.readReg rs1 >>> shamt.toNat)

/-- R186. -/
def execSrai (rd rs1 : RegNum) (shamt : BitVec 5) (s : State) : Result :=
  s.result rd ((s.readReg rs1).sshiftRight shamt.toNat)

/-- R187. -/
def execSlti (rd rs1 : RegNum) (imm : BitVec 12) (s : State) : Result :=
  s.result rd (boolWord (lessSigned (s.readReg rs1) (sextImm imm)))

/-- R188: the immediate is sign-extended, the comparison unsigned. -/
def execSltiu (rd rs1 : RegNum) (imm : BitVec 12) (s : State) : Result :=
  s.result rd (boolWord (lessUnsigned (s.readReg rs1) (sextImm imm)))

end Sys2Proof.Machine
end

