-- ==== Sys2Proof/Machine/AluReg.lean ====
section
/-! DEFINITION. Register-register operations (40_alu_reg.md R160 to R170). -/

namespace Sys2Proof.Machine

/-- R160. -/
def execAdd (rd rs1 rs2 : RegNum) (s : State) : Result := s.result rd (s.readReg rs1 + s.readReg rs2)

/-- R161. -/
def execSub (rd rs1 rs2 : RegNum) (s : State) : Result := s.result rd (s.readReg rs1 - s.readReg rs2)

/-- R162. -/
def execXor (rd rs1 rs2 : RegNum) (s : State) : Result := s.result rd (s.readReg rs1 ^^^ s.readReg rs2)

/-- R163. -/
def execOr (rd rs1 rs2 : RegNum) (s : State) : Result := s.result rd (s.readReg rs1 ||| s.readReg rs2)

/-- R164. -/
def execAnd (rd rs1 rs2 : RegNum) (s : State) : Result := s.result rd (s.readReg rs1 &&& s.readReg rs2)

/-- R165. -/
def execSll (rd rs1 rs2 : RegNum) (s : State) : Result :=
  s.result rd (s.readReg rs1 <<< shiftAmount (s.readReg rs2))

/-- R166. -/
def execSrl (rd rs1 rs2 : RegNum) (s : State) : Result :=
  s.result rd (s.readReg rs1 >>> shiftAmount (s.readReg rs2))

/-- R167. -/
def execSra (rd rs1 rs2 : RegNum) (s : State) : Result :=
  s.result rd ((s.readReg rs1).sshiftRight (shiftAmount (s.readReg rs2)))

/-- R168. -/
def execSlt (rd rs1 rs2 : RegNum) (s : State) : Result :=
  s.result rd (boolWord (lessSigned (s.readReg rs1) (s.readReg rs2)))

/-- R169. -/
def execSltu (rd rs1 rs2 : RegNum) (s : State) : Result :=
  s.result rd (boolWord (lessUnsigned (s.readReg rs1) (s.readReg rs2)))

end Sys2Proof.Machine
end

