-- ==== Sys2Proof/Machine/Control.lean ====
section
/-! DEFINITION. Branches (44_branch.md R230 to R237), jumps (45_jump.md R245 to R247), upper immediates
(46_upper_imm.md R255, R256), the return from a trap and the sleep (47_trap_ret_wfi.md R265, R266). A target that is
not a multiple of 4 is set as computed and refused at the next fetch (R236, R245). -/

namespace Sys2Proof.Machine

/-- R230. -/
def execBeq (rs1 rs2 : RegNum) (offset : BitVec 13) (s : State) : Result :=
  s.branchIf (s.readReg rs1 == s.readReg rs2) offset

/-- R231. -/
def execBne (rs1 rs2 : RegNum) (offset : BitVec 13) (s : State) : Result :=
  s.branchIf (!(s.readReg rs1 == s.readReg rs2)) offset

/-- R232. -/
def execBlt (rs1 rs2 : RegNum) (offset : BitVec 13) (s : State) : Result :=
  s.branchIf (lessSigned (s.readReg rs1) (s.readReg rs2)) offset

/-- R233. -/
def execBge (rs1 rs2 : RegNum) (offset : BitVec 13) (s : State) : Result :=
  s.branchIf (!lessSigned (s.readReg rs1) (s.readReg rs2)) offset

/-- R234. -/
def execBltu (rs1 rs2 : RegNum) (offset : BitVec 13) (s : State) : Result :=
  s.branchIf (lessUnsigned (s.readReg rs1) (s.readReg rs2)) offset

/-- R235. -/
def execBgeu (rs1 rs2 : RegNum) (offset : BitVec 13) (s : State) : Result :=
  s.branchIf (!lessUnsigned (s.readReg rs1) (s.readReg rs2)) offset

/-- R245. -/
def execJal (rd : RegNum) (offset : BitVec 21) (s : State) : Result :=
  .next ((s.writeReg rd (s.pc + 4)).setPc (s.jumpTarget offset))

/-- R246: a meaning only where bit 0 of the sum is 0; the target uses the old value of `x[rs1]`. -/
def execJalr (rd rs1 : RegNum) (imm : BitVec 12) (s : State) : Result :=
  let t := s.effectiveAddress rs1 imm
  if t.getLsbD 0 then .refused .jalrOddTarget
  else .next ((s.writeReg rd (s.pc + 4)).setPc t)

/-- R255. -/
def execLui (rd : RegNum) (imm20 : BitVec 20) (s : State) : Result := s.result rd (upperImm imm20)

/-- R256. -/
def execAuipc (rd : RegNum) (imm20 : BitVec 20) (s : State) : Result := s.result rd (s.pc + upperImm imm20)

/-- R265. -/
def execMret (s : State) : Result := .next s.trapReturn

/-- R266. -/
def execWfi (s : State) : Result := .next { s.advance with asleep := true }

end Sys2Proof.Machine
end

