-- ==== Sys2Proof/Machine/CsrInstr.lean ====
section
/-! DEFINITION. The CSR instructions (48_csr.md R275 to R284): which forms read and which write is R277. -/

namespace Sys2Proof.Machine

/-- R278: always writes; reads unless `rd` is x0. -/
def execCsrrw (rd : RegNum) (csr : CsrAddr) (rs1 : RegNum) (s : State) : Result :=
  s.csrAccess .write rd csr (s.readReg rs1) (!(rd == 0#5)) true

/-- R279: always reads; writes unless `rs1` is x0. -/
def execCsrrs (rd : RegNum) (csr : CsrAddr) (rs1 : RegNum) (s : State) : Result :=
  s.csrAccess .set rd csr (s.readReg rs1) true (!(rs1 == 0#5))

/-- R280: always reads; writes unless `rs1` is x0. -/
def execCsrrc (rd : RegNum) (csr : CsrAddr) (rs1 : RegNum) (s : State) : Result :=
  s.csrAccess .clear rd csr (s.readReg rs1) true (!(rs1 == 0#5))

/-- R281: always writes; reads unless `rd` is x0. -/
def execCsrrwi (rd : RegNum) (csr : CsrAddr) (uimm : BitVec 5) (s : State) : Result :=
  s.csrAccess .write rd csr (zextUimm uimm) (!(rd == 0#5)) true

/-- R282: always reads; writes unless the immediate is 0. -/
def execCsrrsi (rd : RegNum) (csr : CsrAddr) (uimm : BitVec 5) (s : State) : Result :=
  s.csrAccess .set rd csr (zextUimm uimm) true (!(uimm == 0#5))

/-- R283: always reads; writes unless the immediate is 0. -/
def execCsrrci (rd : RegNum) (csr : CsrAddr) (uimm : BitVec 5) (s : State) : Result :=
  s.csrAccess .clear rd csr (zextUimm uimm) true (!(uimm == 0#5))

end Sys2Proof.Machine
end

