-- ==== Sys2Proof/Machine/LoadStore.lean ====
section
/-! DEFINITION. Loads (42_load.md R200 to R206) and stores (43_store.md R215 to R218). -/

namespace Sys2Proof.Machine

/-- R200. -/
def execLb (rd rs1 : RegNum) (imm : BitVec 12) (s : State) : Result :=
  s.load rd (s.effectiveAddress rs1 imm) .byte true

/-- R201. -/
def execLh (rd rs1 : RegNum) (imm : BitVec 12) (s : State) : Result :=
  s.load rd (s.effectiveAddress rs1 imm) .half true

/-- R202. -/
def execLw (rd rs1 : RegNum) (imm : BitVec 12) (s : State) : Result :=
  s.load rd (s.effectiveAddress rs1 imm) .word true

/-- R203. -/
def execLbu (rd rs1 : RegNum) (imm : BitVec 12) (s : State) : Result :=
  s.load rd (s.effectiveAddress rs1 imm) .byte false

/-- R204. -/
def execLhu (rd rs1 : RegNum) (imm : BitVec 12) (s : State) : Result :=
  s.load rd (s.effectiveAddress rs1 imm) .half false

/-- R215. -/
def execSb (rs2 rs1 : RegNum) (imm : BitVec 12) (s : State) : Result :=
  s.store (s.effectiveAddress rs1 imm) .byte (s.readReg rs2)

/-- R216. -/
def execSh (rs2 rs1 : RegNum) (imm : BitVec 12) (s : State) : Result :=
  s.store (s.effectiveAddress rs1 imm) .half (s.readReg rs2)

/-- R217. -/
def execSw (rs2 rs1 : RegNum) (imm : BitVec 12) (s : State) : Result :=
  s.store (s.effectiveAddress rs1 imm) .word (s.readReg rs2)

end Sys2Proof.Machine
end

