-- ==== Sys2Proof/Machine/MulDiv.lean ====
section
/-! DEFINITION. Multiply and divide (49_m_ext.md R300 to R309): exact on integers, then narrowed. Division by zero and
the signed overflow have the results of R309 and raise nothing. -/

namespace Sys2Proof.Machine

/-- Bits 63:32 of a product, read as a 64-bit two's-complement number (R302). -/
def highHalf (p : Int) : Word := (BitVec.ofInt 64 p).extractLsb' 32 32

/-- The signed quotient, rounded toward zero (R304). -/
def divSigned (a b : Word) : Word :=
  if b = 0#32 then 0xFFFFFFFF#32
  else if a = 0x80000000#32 ∧ b = 0xFFFFFFFF#32 then 0x80000000#32
  else BitVec.ofInt 32 (a.toInt.tdiv b.toInt)

/-- The unsigned quotient (R305). -/
def divUnsigned (a b : Word) : Word :=
  if b = 0#32 then 0xFFFFFFFF#32 else BitVec.ofNat 32 (a.toNat / b.toNat)

/-- The signed remainder, with the sign of the dividend (R306). -/
def remSigned (a b : Word) : Word :=
  if b = 0#32 then a
  else if a = 0x80000000#32 ∧ b = 0xFFFFFFFF#32 then 0#32
  else BitVec.ofInt 32 (a.toInt - b.toInt * a.toInt.tdiv b.toInt)

/-- The unsigned remainder (R307). -/
def remUnsigned (a b : Word) : Word :=
  if b = 0#32 then a else BitVec.ofNat 32 (a.toNat - b.toNat * (a.toNat / b.toNat))

/-- R300: the low half is the same for both readings. -/
def execMul (rd rs1 rs2 : RegNum) (s : State) : Result := s.result rd (s.readReg rs1 * s.readReg rs2)

/-- R301. -/
def execMulhu (rd rs1 rs2 : RegNum) (s : State) : Result :=
  s.result rd (highHalf ((s.readReg rs1).toNat * (s.readReg rs2).toNat))

/-- R302. -/
def execMulh (rd rs1 rs2 : RegNum) (s : State) : Result :=
  s.result rd (highHalf ((s.readReg rs1).toInt * (s.readReg rs2).toInt))

/-- R303: `rs1` is the signed operand. -/
def execMulhsu (rd rs1 rs2 : RegNum) (s : State) : Result :=
  s.result rd (highHalf ((s.readReg rs1).toInt * (s.readReg rs2).toNat))

/-- R304. -/
def execDiv (rd rs1 rs2 : RegNum) (s : State) : Result :=
  s.result rd (divSigned (s.readReg rs1) (s.readReg rs2))

/-- R305. -/
def execDivu (rd rs1 rs2 : RegNum) (s : State) : Result :=
  s.result rd (divUnsigned (s.readReg rs1) (s.readReg rs2))

/-- R306. -/
def execRem (rd rs1 rs2 : RegNum) (s : State) : Result :=
  s.result rd (remSigned (s.readReg rs1) (s.readReg rs2))

/-- R307. -/
def execRemu (rd rs1 rs2 : RegNum) (s : State) : Result :=
  s.result rd (remUnsigned (s.readReg rs1) (s.readReg rs2))

end Sys2Proof.Machine
end

