-- ==== Sys2Proof/Machine/Unlisted.lean ====
section
/-! DEFINITION. The three rows that the spec records only so that they can be named: `fence`, `ecall`, `ebreak`
(30_encoding.md R133). Each is an unlisted encoding and does what UNLISTED_ENCODING_POLICY says (R132, log 19). -/

namespace Sys2Proof.Machine

/-- R133, R132. -/
def execFence (fm pred succ : BitVec 4) (rs1 rd : RegNum) (s : State) : Result :=
  s.unlisted (encode (.fence fm pred succ rs1 rd))

/-- R133, R132. -/
def execEcall (s : State) : Result := s.unlisted (encode .ecall)

/-- R133, R132. -/
def execEbreak (s : State) : Result := s.unlisted (encode .ebreak)

end Sys2Proof.Machine
end

