-- ==== Sys2Proof/Machine/Hart.lean ====
section
/-! DEFINITION. One step of the hart, in the order of 00_scope.md R13. -/

namespace Sys2Proof.Machine

/-- R13 (e): fetch at the pc, decode, execute, count. A word that decodes to nothing is an unlisted encoding
(30_encoding.md R132) or names a register that RVE does not have (R134). -/
def State.runInstruction (s : State) : Result :=
  match s.fetch with
  | .error x => .refused x
  | .ok w =>
    match decode s.config.rve s.config.hasM w with
    | .ok i => andThen (exec i s) fun t => .next (t.retire i (s.csrs.mcctr.getLsbD 1))
    | .error .rveRegisterOutOfRange => .refused .rveRegisterOutOfRange
    | .error .unlistedEncoding | .error .truncated => s.unlisted w

/-- R13 (b) to (e): the exception first, then a takeable interrupt (never inside a handler, 60_exceptions.md R350), then
the sleep, in which the hart idles until an interrupt is takeable (log 16), then an instruction. -/
def State.hartStep (s : State) (coreError : Bool) : Result :=
  if coreError then .next (s.takeTrap .coreException)
  else
    match s.chooseInterrupt with
    | some c => if s.trapDepth = 0 then .next (s.takeTrap c) else .refused .nestedInterrupt
    | none => if s.asleep then .next s else s.runInstruction

/-- The state that the hart finds after the environment's moves (R13; 60_exceptions.md R362, R367): the acceptance of a
held request comes last. -/
def State.afterEnvironment (s : State) : State :=
  if s.nextInput.accept then s.environment.acceptRequest else s.environment

/-- One step: nothing after the end of the run (60_exceptions.md R375) or a requested reset (R373); no Trap code for an
id of 16 or more (R325); else the environment moves, then the hart unless the host halts it (R13 (a), R372). -/
def State.fullStep (s : State) : Result :=
  if s.simEnded then .fault .simulationEnded
  else if s.softResetReq then .refused .softResetRequested
  else if s.environment.badExternalId then .refused .externalIdOutOfRange
  else if s.nextInput.halt then .next s.afterEnvironment
  else s.afterEnvironment.hartStep s.nextInput.coreError

/-- The bytes of a word at an address, as a launch places them: written, and not by a store. -/
def State.placeWord (s : State) (a : Nat) (w : Word) : State :=
  { s with
    mem := memWriteBytes s.mem a w 4
    storedCode := s.storedCode.filter (fun b => !(decide (a ≤ b) && decide (b < a + 4))) }

end Sys2Proof.Machine
end

