-- ==== Sys2Proof/Machine/Step.lean ====
section
/-! DEFINITION. The step of the machine, and the placing of one instruction where the next step fetches. -/

namespace Sys2Proof.Machine

/-- One step of the machine (00_scope.md R13). -/
def step (s : State) : Host.Outcome State Fault Refusal := s.fullStep

/-- The state with the instruction of `nbits` bits `w` (zeros above) at the pc, as the launch would have placed it. -/
def State.withFetchWord (s : State) (nbits w : Nat) : State := s.placeWord s.pc.toNat (tableWord nbits w)

end Sys2Proof.Machine
end

