-- ==== Sys2Proof/Safety.lean ====
section
/-! DEFINITION. The terms in which the statements speak: the invariant of the state, the shapes of an instruction's
effect with its frame, when an access reaches its range, when the hart is about to run an instruction. -/

namespace Sys2Proof.Machine

/-! ### The invariant -/

/-- An optional source id is one that has a Trap code: 0 to 15 (60_exceptions.md R321, R325). -/
def idInRange (o : Option SourceId) : Prop := ∀ id, o = some id → id.toNat < 16

/-- What every step keeps: the memory is canonical (log 5), the remembered addresses rise and lie in the program memory
(20_memory.md R100), x0 is 0 (10_state.md R21), every source id has a Trap code (60_exceptions.md R325), and an
external interrupt is in service only inside a handler (R369, R370, R350). -/
structure State.Inv (s : State) : Prop where
  memory : Memory.wf s.mem
  storedRising : s.storedCode.Pairwise (· < ·)
  storedInProgram : ∀ a ∈ s.storedCode, Config.inProgramMemory s.config a 1 = true
  zeroSlot : s.regs[0] = 0#32
  pendingId : idInRange s.extPending
  serviceId : idInRange s.extInService
  requestId : idInRange s.extRequest
  serviceInHandler : s.extInService ≠ none → 0 < s.trapDepth

/-! ### Shapes of an effect -/

/-- Nothing but general registers and the pc differs, and every byte of memory reads as before. -/
def SameBesidesRegsPc (s t : State) : Prop :=
  { t with regs := s.regs, pc := s.pc } = s ∧ ∀ a, t.byteAt a = s.byteAt a

/-- The effect of an instruction whose result goes to `rd`: `rd` holds `v` unless it is x0, which discards it
(10_state.md R21), every other register is unchanged, the pc is `next`, nothing else changes. -/
def RegisterResult (s t : State) (rd : RegNum) (v next : Word) : Prop :=
  (∀ r, t.readReg r = if r = rd ∧ rd ≠ 0#5 then v else s.readReg r) ∧ t.pc = next ∧ SameBesidesRegsPc s t

/-- Only the pc changes, to `next`. -/
def OnlyPc (s t : State) (next : Word) : Prop :=
  t.pc = next ∧ (∀ r, t.readReg r = s.readReg r) ∧ (∀ a, t.byteAt a = s.byteAt a) ∧ { t with pc := s.pc } = s

/-- The `n` bytes of `v` stand at `ea`, little-endian, and no other byte of memory changes (20_memory.md R84, R87); the
pc has advanced; nothing else changes but the record of stores to the program memory. -/
def Stored (s t : State) (ea v : Word) (n : Nat) : Prop :=
  (∀ a, t.byteAt a =
    if ea.toNat ≤ a ∧ a < ea.toNat + n then BitVec.ofNat 8 (v.toNat / 256 ^ (a - ea.toNat)) else s.byteAt a) ∧
  t.pc = s.pc + 4 ∧ (∀ r, t.readReg r = s.readReg r) ∧
  { t with pc := s.pc, mem := s.mem, storedCode := s.storedCode } = s

/-- A data access of `n` bytes at `ea` is aligned (20_memory.md R89), lies in a range of this kind that permits it (R86,
R87, R94), and the bus answers without error (R95). -/
def Reaches (s : State) (ea : Word) (n : Nat) (write : Bool) (kind : RegionKind) : Prop :=
  ea.toNat % n = 0 ∧
    ∃ r, Config.dataRegion s.config ea.toNat n write = some r ∧ r.answersError = false ∧ r.kind = kind

/-- `Reaches` for a range that is memory: program memory or data memory. -/
def ReachesMemory (s : State) (ea : Word) (n : Nat) (write : Bool) : Prop :=
  Reaches s ea n write .programMemory ∨ Reaches s ea n write .dataMemory

/-- What the record of stores to the program memory becomes after a store of `n` bytes at `ea` (20_memory.md R100): in a
range of data memory it stays as it was, in the program memory exactly the stored addresses join it. -/
def CodeRecord (s t : State) (ea : Word) (n : Nat) : Prop :=
  (Reaches s ea n true .dataMemory → t.storedCode = s.storedCode) ∧
    (Reaches s ea n true .programMemory →
      ∀ a, a ∈ t.storedCode ↔ a ∈ s.storedCode ∨ (ea.toNat ≤ a ∧ a < ea.toNat + n))

/-! ### Words -/

/-- The word means the instruction: it decodes to it in every configuration that has the instruction's row (R135) and its
registers (R134), and is refused by name in the others (the two refusals are the spec's decisions D7, D8, log 7). -/
def EncodedAs (w : Word) (i : Instr) : Prop :=
  ∀ rve hasM : Bool, decode rve hasM w =
    if (i.isM && !hasM) = true then .error .unlistedEncoding
    else if i.regsOk rve = true then .ok i
    else .error .rveRegisterOutOfRange

/-- 30_encoding.md R134, read off the bits of a word: one of the register operands that its format has is 16 or more. A
field is 16 or more when its top bit is 1: bit 11 of `rd`, bit 19 of `rs1`, bit 24 of `rs2`. -/
def namesHighRegister (w : Word) : Bool :=
  let op := w.extractLsb' 0 7
  let rd := w.getLsbD 11
  let rs1 := w.getLsbD 19
  let rs2 := w.getLsbD 24
  if op = 0b0110011#7 then rd || rs1 || rs2
  else if op = 0b0010011#7 ∨ op = 0b0000011#7 ∨ op = 0b1100111#7 then rd || rs1
  else if op = 0b1110011#7 then
    if w.getLsbD 14 then rd
    else if w.getLsbD 13 || w.getLsbD 12 then rd || rs1
    else false
  else if op = 0b0100011#7 ∨ op = 0b1100011#7 then rs1 || rs2
  else if op = 0b0110111#7 ∨ op = 0b0010111#7 ∨ op = 0b1101111#7 then rd
  else false

/-! ### Kinds of instruction -/

/-- The three stores. -/
def isStore : Instr → Bool
  | .sb _ _ _ | .sh _ _ _ | .sw _ _ _ => true
  | _ => false

/-- A CSR form that writes the register at an address (48_csr.md R277). -/
def writesCsr (i : Instr) (p : CsrAddr → Bool) : Bool :=
  match i with
  | .csrrw _ a _ | .csrrwi _ a _ => p a
  | .csrrs _ a rs1 | .csrrc _ a rs1 => p a && !(rs1 == 0#5)
  | .csrrsi _ a u | .csrrci _ a u => p a && !(u == 0#5)
  | _ => false

/-- Not one of the 53 instructions (30_encoding.md R133). -/
def isUnlisted : Instr → Bool
  | .fence _ _ _ _ _ | .ecall | .ebreak => true
  | _ => false

/-! ### Control registers -/

/-- A CSR write that the spec gives a meaning (48_csr.md R276): the address is implemented and not `mip`, and the three
write-only registers get a value that has an effect. -/
def csrWriteOk (a : CsrAddr) (v : Word) : Prop :=
  csrImplemented a = true ∧ a ≠ 0x344#12 ∧ (a = 0x345#12 → v = 0#32 ∨ v = 1#32) ∧
    (a = 0x346#12 → v.toNat < 256) ∧ (a = 0x347#12 → v = 1#32)

/-- The bits of a CSR that a write stores (10_state.md R54); the others read as before. -/
def csrWriteMask (a : CsrAddr) : Word :=
  if a = 0x300#12 then 0x00000088#32
  else if a = 0x304#12 then 0x00000888#32
  else if a = 0x305#12 then 0xFFFFFFFC#32
  else if a = 0xB88#12 then 0x0000001F#32
  else if a = 0x301#12 ∨ a = 0xF11#12 ∨ a = 0xF12#12 ∨ a = 0xF13#12 ∨ a = 0xF14#12 then 0#32
  else 0xFFFFFFFF#32

/-- The state `t` differs from `u` only in the general registers (and the index of free values, which a read of a
write-only register uses up); they are those of `s` but for `rd`, which holds the old value of the control register
unless it is x0 (48_csr.md R277, R278). -/
def CsrResult (s t : State) (rd : RegNum) (old : Word) (u : State) : Prop :=
  (∀ r, t.readReg r = if r = rd ∧ rd ≠ 0#5 then old else s.readReg r) ∧
    { t with regs := u.regs, freeIndex := u.freeIndex } = u

/-- A CSR form without a read half that writes the value: `csrrw x0, csr, rs1` with the value in `rs1`, or
`csrrwi x0, csr, uimm` with the value as the immediate (48_csr.md R278, R281). -/
def PureCsrWrite (s : State) (a : CsrAddr) (v : Word) (i : Instr) : Prop :=
  (∃ rs1, i = .csrrw 0#5 a rs1 ∧ s.readReg rs1 = v) ∨
    (∃ uimm : BitVec 5, i = .csrrwi 0#5 a uimm ∧ v = BitVec.ofNat 32 uimm.toNat)

/-! ### Where a step stands -/

/-- The run goes on and the hart takes a step: not ended, no reset requested, no bad source id, not halted
(00_scope.md R13 (a); 60_exceptions.md R325, R372, R373, R375). -/
def State.running (s : State) : Prop :=
  s.simEnded = false ∧ s.softResetReq = false ∧ s.environment.badExternalId = false ∧ s.nextInput.halt = false

/-- The next step runs an instruction: no core error, no takeable interrupt, awake (00_scope.md R13 (b) to (d)). -/
def State.atInstruction (s : State) : Prop :=
  s.running ∧ s.nextInput.coreError = false ∧ s.afterEnvironment.takeable = [] ∧ s.afterEnvironment.asleep = false

/-- A fetch at the pc yields the word: aligned, in the program memory, no byte stored, and these four bytes
(20_memory.md R88, R90, R100). -/
def State.fetches (s : State) (w : Word) : Prop :=
  s.pc.toNat % 4 = 0 ∧ Config.inProgramMemory s.config s.pc.toNat 4 = true ∧
    (∀ a ∈ s.storedCode, ¬ (s.pc.toNat ≤ a ∧ a < s.pc.toNat + 4)) ∧
    w = s.byteAt (s.pc.toNat + 3) ++ s.byteAt (s.pc.toNat + 2) ++ s.byteAt (s.pc.toNat + 1) ++ s.byteAt s.pc.toNat

/-- The next step runs this instruction: it is at an instruction, and the word at the pc decodes to it. -/
def State.aboutToRun (s : State) (i : Instr) : Prop :=
  ∃ w, s.atInstruction ∧ s.afterEnvironment.fetches w ∧ decode s.config.rve s.config.hasM w = .ok i

/-- Nothing differs but what the environment may move: `mtime`, the PLIC's wires and signals, the pending id, the
inputs and the index of free values. -/
def SameBesidesEnvironment (s t : State) : Prop :=
  { t with
    csrs := { t.csrs with mtime := s.csrs.mtime }
    extRequest := s.extRequest
    extPending := s.extPending
    plicSignals := s.plicSignals
    inputs := s.inputs
    freeIndex := s.freeIndex } = s

/-! ### Safe runs -/

/-- A step that answers a next state: neither a fault nor a refusal. -/
def State.stepsOn (s : State) : Prop := ∃ t, step s = .next t

/-- A state that some number of steps leads to. -/
inductive ReachableFrom (s : State) : State → Prop where
  | refl : ReachableFrom s s
  | step {t u : State} : ReachableFrom s t → Machine.step t = .next u → ReachableFrom s u

/-- A run is safe when no state it reaches stops, but for the end of the simulation (60_exceptions.md R375). -/
def State.runsSafely (s : State) : Prop := ∀ t, ReachableFrom s t → t.stepsOn ∨ step t = .fault .simulationEnded

end Sys2Proof.Machine
end

