-- ==== Sys2Proof/Certificates/Slice0/Obligations.lean ====
section
/-! DEFINITION. The statements for the provers. Each docstring names the rules of spec/ it formalises. -/

open Sys2Proof Sys2Proof.Machine

/-! ### Encoding (30_encoding.md) -/

/-- Decoding the word of a well-formed instruction gives the instruction back, in every configuration. -/
def Obligations.DecodeOfEncode : Prop :=
  ∀ (rve hasM : Bool) (i : Instr), i.wf rve hasM = true → decode rve hasM (encode i) = .ok i

/-- A word that decodes is the word of the instruction it decodes to, which is well-formed: no two words mean the same
instruction, and the decoder ignores no bit. -/
def Obligations.EncodeOfDecode : Prop :=
  ∀ (rve hasM : Bool) (w : Word) (i : Instr), decode rve hasM w = .ok i → encode i = w ∧ i.wf rve hasM = true

/-- 30_encoding.md R130 over the printed rows of R131 and R133: a word decodes to a row exactly when it agrees with
the row's match under its mask, no word agrees with two rows, a word that agrees with none is unlisted. That a word
without a row and a high register under RVE are refused is the spec's decision D7, D8 (logs 7, 19). -/
def Obligations.DecodeFollowsOpcodeTable : Prop :=
  ∀ (rve hasM : Bool) (w : Word),
    (∀ i, decode rve hasM w = .ok i → w &&& i.row.mask = i.row.pattern ∧ i.regsOk rve = true) ∧
    (∀ i : Instr, (hasM || !i.isM) = true → w &&& i.row.mask = i.row.pattern →
      ∃ j : Instr, j.row = i.row ∧
        decode rve hasM w = if j.regsOk rve then .ok j else .error .rveRegisterOutOfRange) ∧
    ((∀ i : Instr, (hasM || !i.isM) = true → w &&& i.row.mask ≠ i.row.pattern) →
      decode rve hasM w = .error .unlistedEncoding) ∧
    (∀ i j : Instr, w &&& i.row.mask = i.row.pattern → w &&& j.row.mask = j.row.pattern → i.row = j.row)

/-- R134: with RVE a word that matches a row but whose register fields, among those the format has, name 16 or more is
refused under its own reason; any other word decodes as without RVE. The spec's own decision D8 (log 7). -/
def Obligations.RveRefusesHighRegisters : Prop :=
  ∀ (hasM : Bool) (w : Word) (i : Instr), decode false hasM w = .ok i →
    decode true hasM w = if namesHighRegister w then .error .rveRegisterOutOfRange else .ok i

/-- R135: without HAS_M the words of the eight rows are unlisted, and every other word decodes as with it. The spec's
own decision D7 (logs 7, 19). -/
def Obligations.MWordsNeedHasM : Prop :=
  ∀ (rve : Bool) (w : Word),
    (w &&& 0xFE00007F#32 = 0x02000033#32 → decode rve false w = .error .unlistedEncoding) ∧
    (w &&& 0xFE00007F#32 ≠ 0x02000033#32 → decode rve false w = decode rve true w)

/-- Words written out from R131 decode to their instructions, one for each family, and no bytes decode short. -/
def Obligations.SampleWordsDecode : Prop :=
  decodeTableWord 32 0b00000000001000001000000110110011 = some (.add 3 1 2) ∧
  decodeTableWord 32 0b01000000010000001101000110010011 = some (.srai 3 1 4) ∧
  decodeTableWord 32 0b11111111111100001000000110000011 = some (.lb 3 1 0xFFF) ∧
  decodeTableWord 32 0b11111110001000001000111110100011 = some (.sb 2 1 0xFFF) ∧
  decodeTableWord 32 0b11111110001000001001111011100011 = some (.bne 1 2 0x1FFC) ∧
  decodeTableWord 32 0b11111111100111111111000001101111 = some (.jal 0 0x1FFFF8) ∧
  decodeTableWord 32 0b00010010001101000101000110110111 = some (.lui 3 0x12345) ∧
  decodeTableWord 32 0b00110000001000000000000001110011 = some .mret ∧
  decodeTableWord 32 0b00110100000000110001001011110011 = some (.csrrw 5 0x340 6) ∧
  decodeTableWord 32 0b00000010001000001010000110110011 = some (.mulhsu 3 1 2) ∧
  decodeTableWord 32 0 = none ∧
  decodeBytes false true [0x33, 0, 0] = .error .truncated

/-! ### The step (00_scope.md R13) -/

/-- R13 (e): when the bytes at the pc decode to an instruction, the step is that instruction's meaning on the state
after the environment's moves, followed by the count; the environment moves only what is its own. That the environment
moves first, on one input a step, is the model's choice (log 8); the order within the step is R13's, with the spec's
decision D37. -/
def Obligations.StepRunsDecodedInstruction : Prop :=
  ∀ (s : State) (w : Word) (i : Instr), s.atInstruction → s.afterEnvironment.fetches w →
    decode s.config.rve s.config.hasM w = .ok i →
    step s = andThen (exec i s.afterEnvironment)
      (fun t => .next (t.retire i (s.csrs.mcctr.getLsbD 1))) ∧
    SameBesidesEnvironment s s.afterEnvironment

/-- 20_memory.md R90, R88, R100: the fetch refuses, in this order, a pc that is not a multiple of 4, a word outside
the program memory, a word of which a store has written a byte. The spec's own decisions D3, D28, D26 (log 7). -/
def Obligations.FetchRefusals : Prop :=
  ∀ s : State, s.atInstruction →
    (s.pc.toNat % 4 ≠ 0 → step s = .refused .misalignedPc) ∧
    (s.pc.toNat % 4 = 0 → Config.inProgramMemory s.config s.pc.toNat 4 = false →
      step s = .refused .fetchOutsideProgramMemory) ∧
    (s.pc.toNat % 4 = 0 → Config.inProgramMemory s.config s.pc.toNat 4 = true →
      (∃ a ∈ s.storedCode, s.pc.toNat ≤ a ∧ a < s.pc.toNat + 4) → step s = .refused .fetchOfModifiedCode)

/-- 30_encoding.md R132, R134: a fetched word that is no instruction is refused by name, or raises the exception when
UNLISTED_ENCODING_POLICY is trap_code_1; a register that RVE does not have is refused. The spec's own decisions D7,
D8; what the exception saves there is the model's choice (logs 7, 19). -/
def Obligations.UndecodableWords : Prop :=
  ∀ (s : State) (w : Word), s.atInstruction → s.afterEnvironment.fetches w →
    (decode s.config.rve s.config.hasM w = .error .unlistedEncoding →
      (s.config.unlistedPolicy = .refuse → step s = .refused (.unlistedEncoding w s.pc)) ∧
      (s.config.unlistedPolicy = .trapCode1 → step s = .next (s.afterEnvironment.takeTrap .coreException))) ∧
    (decode s.config.rve s.config.hasM w = .error .rveRegisterOutOfRange →
      step s = .refused .rveRegisterOutOfRange)

/-- 30_encoding.md R133, R132: `fence`, `ecall` and `ebreak` are recorded under their standard encodings and refused
as unlisted encodings; under the policy trap_code_1 each raises the exception instead. The spec's own decision D7;
what the exception saves there is the model's choice (logs 7, 19). -/
def Obligations.UnlistedInstructions : Prop :=
  ∀ (s : State) (fm pred succ : BitVec 4) (rs1 rd : RegNum),
    EncodedAs (fm ++ pred ++ succ ++ rs1 ++ 0b000#3 ++ rd ++ 0b0001111#7) (.fence fm pred succ rs1 rd) ∧
    EncodedAs 0x00000073#32 .ecall ∧ EncodedAs 0x00100073#32 .ebreak ∧
    (s.config.unlistedPolicy = .refuse →
      exec (.fence fm pred succ rs1 rd) s =
        .refused (.unlistedEncoding (fm ++ pred ++ succ ++ rs1 ++ 0b000#3 ++ rd ++ 0b0001111#7) s.pc) ∧
      exec .ecall s = .refused (.unlistedEncoding 0x00000073#32 s.pc) ∧
      exec .ebreak s = .refused (.unlistedEncoding 0x00100073#32 s.pc)) ∧
    (s.config.unlistedPolicy = .trapCode1 →
      exec (.fence fm pred succ rs1 rd) s = .next (s.takeTrap .coreException) ∧
      exec .ecall s = .next (s.takeTrap .coreException) ∧
      exec .ebreak s = .next (s.takeTrap .coreException))

/-- 60_exceptions.md R372, 00_scope.md R13 (a): a halted hart takes no step, whatever is pending; only what the
environment moves changes. The spec's own decision D33; that the environment goes on is the model's choice (logs 7, 8,
24). -/
def Obligations.HaltedHartRests : Prop :=
  ∀ s : State, s.simEnded = false → s.softResetReq = false → s.environment.badExternalId = false →
    s.nextInput.halt = true → step s = .next s.afterEnvironment ∧ SameBesidesEnvironment s s.afterEnvironment

/-- 60_exceptions.md R375, R373, R325: after a write of 1 to `mends` no step is taken; after a write to `mcctr` with
bit 3 = 1 the run stops with the request; an external id of 16 or more is refused. The spec's own decisions D24, D25,
D32; that the run stops one step after the write, and that the id is refused when presented, are the model's choice
(logs 7, 18, 22). -/
def Obligations.RunEnds : Prop :=
  (∀ s : State, s.simEnded = true → step s = .fault .simulationEnded) ∧
  (∀ s : State, s.simEnded = false → s.softResetReq = true → step s = .refused .softResetRequested) ∧
  (∀ s : State, s.simEnded = false → s.softResetReq = false → ∀ id : SourceId, 16 ≤ id.toNat →
    (s.extRequest = some id ∨ (s.extRequest = none ∧ s.nextInput.plicRaise = some id)) →
    step s = .refused .externalIdOutOfRange)

/-! ### Interrupts (60_exceptions.md) -/

/-- R334: an interrupt is takeable when it is pending, its `mie` bit is 1 and `mstatus.MIE` is 1, the pending bits
being those of R328 to R330; a takeable interrupt is taken before the next instruction is fetched. The pending bits
and the moment are the spec's decisions D16, D17, D23, D37 (log 7); the sleep and the input that carries a core error
are the model's (logs 8, 12). -/
def Obligations.TakeableInterrupts : Prop :=
  (∀ s : State,
    (TrapCause.software ∈ s.takeable ↔ s.csrs.msipPending = true ∧ s.csrs.msie = true ∧ s.csrs.mie = true) ∧
    (TrapCause.timer ∈ s.takeable ↔
      s.csrs.mtimecmp.toNat ≤ s.csrs.mtime.toNat ∧ s.csrs.mtie = true ∧ s.csrs.mie = true) ∧
    (∀ id, TrapCause.external id ∈ s.takeable ↔
      s.extPending = some id ∧ s.csrs.meie = true ∧ s.csrs.mie = true) ∧
    TrapCause.coreException ∉ s.takeable) ∧
  (∀ s : State, s.running → s.nextInput.coreError = false → s.afterEnvironment.takeable ≠ [] → s.trapDepth = 0 →
    ∃ c ∈ s.afterEnvironment.takeable, step s = .next (s.afterEnvironment.takeTrap c))

/-- R335, R6: of the takeable interrupts one is taken: with one it is that one; with several it is some one of them, and
where IRQ_PRIORITY names kinds that are takeable it is the interrupt of the first such kind of the list. The open order
is the spec's decision D11; the list that can fix it is the model's form of the parameter (logs 7, 11). -/
def Obligations.InterruptPriority : Prop :=
  ∀ (s : State), s.running → s.nextInput.coreError = false → s.trapDepth = 0 →
    (s.afterEnvironment.takeable ≠ [] → ∃ c ∈ s.afterEnvironment.takeable, step s = .next (s.afterEnvironment.takeTrap c)) ∧
    (∀ c, s.afterEnvironment.takeable = [c] → step s = .next (s.afterEnvironment.takeTrap c)) ∧
    (∀ c k skipped rest, c ∈ s.afterEnvironment.takeable → trapKind c = some k →
      s.config.irqPriority = skipped ++ k :: rest →
      (∀ d ∈ s.afterEnvironment.takeable, ∀ j ∈ skipped, trapKind d ≠ some j) →
      step s = .next (s.afterEnvironment.takeTrap c))

/-- R350: trap entry leaves no interrupt takeable; an interrupt that would be taken while a handler runs is refused.
The refusal is the spec's own decision D19 (log 7). -/
def Obligations.NestedInterruptRefused : Prop :=
  (∀ (s : State) (c : TrapCause), (s.takeTrap c).takeable = []) ∧
  ∀ s : State, s.running → s.nextInput.coreError = false → s.afterEnvironment.takeable ≠ [] → 0 < s.trapDepth →
    step s = .refused .nestedInterrupt

/-- R322, R335, R351: the exception is taken whatever the enables, the pending interrupts, the sleep and the handlers
running are. That the trigger is an input of the step is the model's choice (log 12). -/
def Obligations.CoreExceptionOutranks : Prop :=
  ∀ s : State, s.running → s.nextInput.coreError = true →
    step s = .next (s.afterEnvironment.takeTrap .coreException)

/-- R367, R325: a request with an id that has a Trap code, which the PLIC holds or raises, is accepted, when the moment
comes and nothing is pending, whatever `mie` and `mstatus` are: it becomes the pending id, `mip.MEIP` reads 1, the PLIC
sees the acceptance and withdraws the request. Otherwise the request stays on the wires. Without a request nothing is
accepted, nothing becomes pending and nothing is signalled. The acceptance is the spec's decision D17; that each input
says whether it comes is the model's choice (logs 7, 8, 10). -/
def Obligations.ExternalRequestAccepted : Prop :=
  (∀ (s : State) (id : SourceId), id.toNat < 16 →
    (s.extRequest = some id ∨ (s.extRequest = none ∧ s.nextInput.plicRaise = some id)) →
    (s.nextInput.accept = true → s.extPending = none →
      s.afterEnvironment.extPending = some id ∧ s.afterEnvironment.extRequest = none ∧
      s.afterEnvironment.plicSignals = s.plicSignals ++ [.accepted id] ∧
      (s.afterEnvironment.csrRead 0x344#12).getLsbD 11 = true) ∧
    (s.nextInput.accept = false ∨ s.extPending ≠ none →
      s.afterEnvironment.extPending = s.extPending ∧ s.afterEnvironment.extRequest = some id ∧
      s.afterEnvironment.plicSignals = s.plicSignals)) ∧
  (∀ s : State, s.extRequest = none → s.nextInput.plicRaise = none →
    s.afterEnvironment.extPending = s.extPending ∧ s.afterEnvironment.extRequest = none ∧
    s.afterEnvironment.plicSignals = s.plicSignals)

/-- R340, R341, R343, R369: trap entry, on the values from before it. `mtval` is 0 for an interrupt; for the exception
nothing is said of it (R344). Nothing else changes. The reading of the base is the spec's decision D12, the external
source's transitions D17, the depth counter D19 (log 7). -/
def Obligations.TrapEntry : Prop :=
  ∀ (s : State) (c : TrapCause),
    (s.takeTrap c).csrs.mpie = s.csrs.mie ∧ (s.takeTrap c).csrs.mie = false ∧
    (s.takeTrap c).csrs.mepc = s.pc ∧
    (s.takeTrap c).csrs.mcause =
      (match c with
      | .coreException => 0x00000001#32
      | .software => 0x80000002#32
      | .timer => 0x80000003#32
      | .external id => 0x80000004#32 + id.setWidth 32) ∧
    (c ≠ .coreException → (s.takeTrap c).csrs.mtval = 0#32) ∧
    (s.takeTrap c).pc.toNat =
      (4 * s.csrs.mtvecBase.toNat + 4 * ((s.takeTrap c).csrs.mcause.toNat % 2 ^ 31)) % 2 ^ 32 ∧
    (s.takeTrap c).trapDepth = s.trapDepth + 1 ∧ (s.takeTrap c).asleep = false ∧
    (s.takeTrap c).extPending = (match c with | .external _ => none | _ => s.extPending) ∧
    (s.takeTrap c).extInService = (match c with | .external id => some id | _ => s.extInService) ∧
    (∀ a, (s.takeTrap c).byteAt a = s.byteAt a) ∧
    { s.takeTrap c with
      csrs := { (s.takeTrap c).csrs with
        mie := s.csrs.mie, mpie := s.csrs.mpie, mepc := s.csrs.mepc, mcause := s.csrs.mcause, mtval := s.csrs.mtval }
      pc := s.pc, trapDepth := s.trapDepth, asleep := s.asleep, extPending := s.extPending
      extInService := s.extInService, freeIndex := s.freeIndex } = s

/-- R321: every row of its table: `mcause`, the offset from the vector table's base, the entry's address where reset
puts the table. Derived in the spec from R320, R341 with decision D12, and R343 (log 7). -/
def Obligations.TrapVectorTable : Prop :=
  ∀ (s : State) (c : TrapCause) (code : Word) (offset : Nat),
    (c, code, offset) ∈ [(TrapCause.coreException, 0x00000001#32, 0x04), (.software, 0x80000002#32, 0x08),
      (.timer, 0x80000003#32, 0x0C), (.external 0, 0x80000004#32, 0x10), (.external 1, 0x80000005#32, 0x14),
      (.external 2, 0x80000006#32, 0x18), (.external 3, 0x80000007#32, 0x1C), (.external 4, 0x80000008#32, 0x20),
      (.external 5, 0x80000009#32, 0x24), (.external 6, 0x8000000A#32, 0x28), (.external 7, 0x8000000B#32, 0x2C),
      (.external 8, 0x8000000C#32, 0x30), (.external 9, 0x8000000D#32, 0x34), (.external 10, 0x8000000E#32, 0x38),
      (.external 11, 0x8000000F#32, 0x3C), (.external 12, 0x80000010#32, 0x40), (.external 13, 0x80000011#32, 0x44),
      (.external 14, 0x80000012#32, 0x48), (.external 15, 0x80000013#32, 0x4C)] →
    (s.takeTrap c).csrs.mcause = code ∧
    (s.takeTrap c).pc.toNat = (4 * s.csrs.mtvecBase.toNat + offset) % 2 ^ 32 ∧
    (s.csrs.mtvecBase = 0#30 → (s.takeTrap c).pc.toNat = offset)

/-- 47_trap_ret_wfi.md R265: `mret`, with its fixed word. The completion signal and the depth counter are the spec's
decisions D18, D19 (log 7). -/
def Obligations.MretReturns : Prop :=
  (∀ rve hasM, decode rve hasM 0x30200073#32 = .ok .mret) ∧
  ∀ s : State, ∃ t, exec .mret s = .next t ∧
    t.pc = s.csrs.mepc ∧ t.csrs.mie = s.csrs.mpie ∧ t.csrs.mpie = false ∧
    t.trapDepth = s.trapDepth - 1 ∧ t.extInService = none ∧
    t.plicSignals = s.plicSignals ++ (match s.extInService with | some id => [.completed id] | none => []) ∧
    (∀ r, t.readReg r = s.readReg r) ∧ (∀ a, t.byteAt a = s.byteAt a) ∧
    { t with
      csrs := { t.csrs with mie := s.csrs.mie, mpie := s.csrs.mpie }
      pc := s.pc, trapDepth := s.trapDepth, extInService := s.extInService, plicSignals := s.plicSignals } = s

/-- R348, R350, R351: an `mret` right after a trap entry resumes where the trap struck with `MIE` as it was and `MPIE`
0; after the exception has struck inside a handler, the two returns leave interrupts disabled. Derived in the spec
from R340 and R265; the depth counter is its decision D19 (log 7). -/
def Obligations.MretUndoesTrapEntry : Prop :=
  (∀ (s : State) (c : TrapCause), ∃ t, exec .mret (s.takeTrap c) = .next t ∧
    t.pc = s.pc ∧ t.csrs.mie = s.csrs.mie ∧ t.csrs.mpie = false ∧ t.trapDepth = s.trapDepth ∧
    (∀ r, t.readReg r = s.readReg r) ∧ (∀ a, t.byteAt a = s.byteAt a)) ∧
  (∀ s t u : State, s.csrs.mie = false → exec .mret (s.takeTrap .coreException) = .next t →
    exec .mret t = .next u → t.csrs.mie = false ∧ t.csrs.mpie = false ∧ u.csrs.mie = false ∧ u.csrs.mpie = false)

/-- 47_trap_ret_wfi.md R266: `wfi`, with its fixed word, puts the hart to sleep after itself; while asleep the hart
executes nothing and only a takeable interrupt wakes it. The narrow wake-up is the spec's decision D20, D39; that the
hart idles, where the spec calls it stuck, is the model's choice (logs 7, 16). -/
def Obligations.WfiSleepsUntilTakeable : Prop :=
  (∀ rve hasM, decode rve hasM 0x10500073#32 = .ok .wfi) ∧
  (∀ s : State, ∃ t, exec .wfi s = .next t ∧ t.asleep = true ∧ t.pc = s.pc + 4 ∧
    (∀ r, t.readReg r = s.readReg r) ∧ (∀ a, t.byteAt a = s.byteAt a) ∧
    { t with pc := s.pc, asleep := s.asleep } = s) ∧
  (∀ s : State, s.running → s.nextInput.coreError = false → s.asleep = true →
    (s.afterEnvironment.takeable = [] → step s = .next s.afterEnvironment ∧ SameBesidesEnvironment s s.afterEnvironment) ∧
    (s.afterEnvironment.takeable ≠ [] → s.trapDepth = 0 →
      ∃ t, step s = .next t ∧ t.asleep = false ∧ t.csrs.mepc = s.pc))

/-! ### Counters (60_exceptions.md R360, R362) -/

/-- R360: an instruction that completes adds 1 to the 64-bit counter when `mcctr[1]` was 1 before it and it did not
itself write the counter; nothing else in an instruction changes the counter. The spec's own decision D21 (logs 7,
21). -/
def Obligations.InstructionCounter : Prop :=
  (∀ (s t : State) (i : Instr), exec i s = .next t →
    writesCsr i (fun a => a == 0xB02#12 || a == 0xB82#12) = false → t.csrs.minstret = s.csrs.minstret) ∧
  (∀ (s u : State) (w : Word) (i : Instr), s.atInstruction → s.afterEnvironment.fetches w →
    decode s.config.rve s.config.hasM w = .ok i → isUnlisted i = false → exec i s.afterEnvironment = .next u →
    ∃ n : BitVec 64, step s = .next { u with csrs := { u.csrs with minstret := n } } ∧
      n = if s.csrs.mcctr.getLsbD 1 = true ∧ writesCsr i (fun a => a == 0xB02#12 || a == 0xB82#12) = false then
          u.csrs.minstret + 1
        else u.csrs.minstret)

/-- R362: while `mcctr[2]` is 1 the timer counter advances before a step, by MTIME_TICK or by a free number; while it
is 0 it stands still; no instruction but a CSR write changes it. The spec's own decision D22; that the advance comes
first in the step is the model's choice (logs 7, 8, 9). -/
def Obligations.TimerCounter : Prop :=
  (∀ s : State, s.csrs.mcctr.getLsbD 2 = false → s.afterEnvironment.csrs.mtime = s.csrs.mtime) ∧
  (∀ s : State, s.csrs.mcctr.getLsbD 2 = true → ∃ d : Nat,
    s.afterEnvironment.csrs.mtime.toNat = (s.csrs.mtime.toNat + d) % 2 ^ 64 ∧
    (∀ k, s.config.mtimeTick = some k → d = k)) ∧
  (∀ (s t : State) (i : Instr), exec i s = .next t →
    writesCsr i (fun a => a == 0xB03#12 || a == 0xB83#12) = false → t.csrs.mtime = s.csrs.mtime)

/-! ### Control registers (48_csr.md, 10_state.md) -/

/-- 48_csr.md R275: what a read returns for every implemented address, field by field, through `csrrs rd, csr, x0`,
which writes nothing; a write-only register gives some value; any other address is refused. The write-only registers
and the other addresses are the spec's decisions D14, D13, the bits of `mip` D16, D17, D23, D38 (logs 7, 13). That
`misa` reads the same in every configuration, with RVE or without M too, is its decision D35, unsafe for a core that
differs (log 27). -/
def Obligations.CsrReadTable : Prop :=
  ∀ (s : State) (rd : RegNum),
    (∀ (a : CsrAddr) (v : Word),
      (a, v) ∈ [
        (0x300#12, 0#24 ++ BitVec.ofBool s.csrs.mpie ++ 0#3 ++ BitVec.ofBool s.csrs.mie ++ 0#3),
        (0x301#12, 0x40001100#32),
        (0x304#12, 0#20 ++ BitVec.ofBool s.csrs.meie ++ 0#3 ++ BitVec.ofBool s.csrs.mtie ++ 0#3 ++
          BitVec.ofBool s.csrs.msie ++ 0#3),
        (0x305#12, s.csrs.mtvecBase ++ 0b01#2),
        (0x340#12, s.csrs.mscratch), (0x341#12, s.csrs.mepc), (0x342#12, s.csrs.mcause), (0x343#12, s.csrs.mtval),
        (0x344#12, 0#20 ++ BitVec.ofBool s.extPending.isSome ++ 0#3 ++
          BitVec.ofBool (decide (s.csrs.mtimecmp.toNat ≤ s.csrs.mtime.toNat)) ++ 0#3 ++
          BitVec.ofBool s.csrs.msipPending ++ 0#3),
        (0xB02#12, BitVec.ofNat 32 s.csrs.minstret.toNat), (0xB82#12, BitVec.ofNat 32 (s.csrs.minstret.toNat / 2 ^ 32)),
        (0xB03#12, BitVec.ofNat 32 s.csrs.mtime.toNat), (0xB83#12, BitVec.ofNat 32 (s.csrs.mtime.toNat / 2 ^ 32)),
        (0xB04#12, BitVec.ofNat 32 s.csrs.mtimecmp.toNat), (0xB84#12, BitVec.ofNat 32 (s.csrs.mtimecmp.toNat / 2 ^ 32)),
        (0xB88#12, 0#27 ++ s.csrs.mcctr),
        (0xF11#12, 0x00114514#32), (0xF12#12, 0x00000001#32), (0xF13#12, s.config.mimpid), (0xF14#12, 0x00000000#32)] →
      ∃ t, exec (.csrrs rd a 0#5) s = .next t ∧ RegisterResult s t rd v (s.pc + 4)) ∧
    (∀ a ∈ [0x345#12, 0x346#12, 0x347#12], ∃ t v, exec (.csrrs rd a 0#5) s = .next t ∧
      RegisterResult s { t with freeIndex := s.freeIndex } rd v (s.pc + 4)) ∧
    (∀ a : CsrAddr, a ∉ [0x300#12, 0x301#12, 0x304#12, 0x305#12, 0x340#12, 0x341#12, 0x342#12, 0x343#12, 0x344#12,
        0x345#12, 0x346#12, 0x347#12, 0xB02#12, 0xB03#12, 0xB04#12, 0xB82#12, 0xB83#12, 0xB84#12, 0xB88#12,
        0xF11#12, 0xF12#12, 0xF13#12, 0xF14#12] →
      exec (.csrrs rd a 0#5) s = .refused .unimplementedCsr)

/-- 48_csr.md R276: the effect of every CSR write, through the two forms that read nothing, `csrrw x0, csr, rs1` and
`csrrwi x0, csr, uimm`: exactly the named part of the state changes, and the pc. That an instruction which writes the
counter is not counted is `InstructionCounter`. The refusals and the custom registers are the spec's decisions D13,
D15, D16, D24, D25 (log 7). -/
def Obligations.CsrWriteTable : Prop :=
  ∀ (s : State) (v : Word),
    (∀ (a : CsrAddr) (c : Csrs) (i : Instr), PureCsrWrite s a v i →
      (a, c) ∈ [
        (0x300#12, { s.csrs with mie := v.getLsbD 3, mpie := v.getLsbD 7 }),
        (0x301#12, s.csrs), (0xF11#12, s.csrs), (0xF12#12, s.csrs), (0xF13#12, s.csrs), (0xF14#12, s.csrs),
        (0x304#12, { s.csrs with msie := v.getLsbD 3, mtie := v.getLsbD 7, meie := v.getLsbD 11 }),
        (0x305#12, { s.csrs with mtvecBase := BitVec.ofNat 30 (v.toNat / 4) }),
        (0x340#12, { s.csrs with mscratch := v }), (0x341#12, { s.csrs with mepc := v }),
        (0x342#12, { s.csrs with mcause := v }), (0x343#12, { s.csrs with mtval := v }),
        (0xB02#12, { s.csrs with minstret := BitVec.ofNat 64 (s.csrs.minstret.toNat / 2 ^ 32 * 2 ^ 32 + v.toNat) }),
        (0xB82#12, { s.csrs with minstret := BitVec.ofNat 64 (v.toNat * 2 ^ 32 + s.csrs.minstret.toNat % 2 ^ 32) }),
        (0xB03#12, { s.csrs with mtime := BitVec.ofNat 64 (s.csrs.mtime.toNat / 2 ^ 32 * 2 ^ 32 + v.toNat) }),
        (0xB83#12, { s.csrs with mtime := BitVec.ofNat 64 (v.toNat * 2 ^ 32 + s.csrs.mtime.toNat % 2 ^ 32) }),
        (0xB04#12, { s.csrs with mtimecmp := BitVec.ofNat 64 (s.csrs.mtimecmp.toNat / 2 ^ 32 * 2 ^ 32 + v.toNat) }),
        (0xB84#12, { s.csrs with mtimecmp := BitVec.ofNat 64 (v.toNat * 2 ^ 32 + s.csrs.mtimecmp.toNat % 2 ^ 32) })] →
      exec i s = .next { s with csrs := c, pc := s.pc + 4 }) ∧
    (∀ i, PureCsrWrite s 0x344#12 v i → exec i s = .refused .writeToMip) ∧
    (∀ i, PureCsrWrite s 0x345#12 v i → exec i s =
      if v.toNat = 1 then .next { s with csrs := { s.csrs with msipPending := true }, pc := s.pc + 4 }
      else if v.toNat = 0 then .next { s with csrs := { s.csrs with msipPending := false }, pc := s.pc + 4 }
      else .refused .msipValue) ∧
    (∀ i, PureCsrWrite s 0x346#12 v i → exec i s =
      if v.toNat < 256 then .next { s with simOutput := s.simOutput ++ [BitVec.ofNat 8 v.toNat], pc := s.pc + 4 }
      else .refused .mprintsValue) ∧
    (∀ i, PureCsrWrite s 0x347#12 v i → exec i s =
      if v.toNat = 1 then .next { s with simEnded := true, pc := s.pc + 4 } else .refused .mendsValue) ∧
    (∀ i, PureCsrWrite s 0xB88#12 v i → exec i s =
      .next { s with csrs := { s.csrs with mcctr := BitVec.ofNat 5 v.toNat }, pc := s.pc + 4,
                     softResetReq := s.softResetReq || v.getLsbD 3 }) ∧
    (∀ a i, csrImplemented a = false → PureCsrWrite s a v i → exec i s = .refused .unimplementedCsr)

/-- 10_state.md R33, R42, R43, R50, R31 and the 64-bit pairs of R40, R52, R53: after a CSR write that completes, the
register reads as written in its writable bits and as before in the others, and every other register reads as before.
The write-only registers and the computed `mip` are left to R275 and R276. -/
def Obligations.CsrReadAfterWrite : Prop :=
  ∀ (s t : State) (a : CsrAddr) (rs1 : RegNum), exec (.csrrw 0#5 a rs1) s = .next t →
    (csrWriteOnly a = false →
      t.csrRead a = (s.readReg rs1 &&& csrWriteMask a) ||| (s.csrRead a &&& ~~~csrWriteMask a)) ∧
    (∀ b : CsrAddr, b ≠ a → b ≠ 0x344#12 → csrWriteOnly b = false → t.csrRead b = s.csrRead b)

/-- 48_csr.md R278, R281, R277: `csrrw` and `csrrwi` write the operand, just as the form with x0 as `rd` does, and
give `rd` the old value unless it is x0; they complete for every write that has a meaning. Which half a form
suppresses is the spec's decision D34 (log 7). -/
def Obligations.CsrSwapForms : Prop :=
  ∀ (s : State) (rd rs1 : RegNum) (a : CsrAddr) (uimm : BitVec 5),
    EncodedAs (a ++ rs1 ++ 0b001#3 ++ rd ++ 0b1110011#7) (.csrrw rd a rs1) ∧
    EncodedAs (a ++ uimm ++ 0b101#3 ++ rd ++ 0b1110011#7) (.csrrwi rd a uimm) ∧
    (csrWriteOk a (s.readReg rs1) → ∃ t u, exec (.csrrw rd a rs1) s = .next t ∧
      exec (.csrrw 0#5 a rs1) s = .next u ∧ CsrResult s t rd (s.csrRead a) u) ∧
    (csrWriteOk a (BitVec.ofNat 32 uimm.toNat) → ∃ t u, exec (.csrrwi rd a uimm) s = .next t ∧
      exec (.csrrwi 0#5 a uimm) s = .next u ∧ CsrResult s t rd (s.csrRead a) u)

/-- 48_csr.md R279, R280, R282, R283, R277: the set and clear forms give `rd` the old value and write the old value
and the operand combined, just as a `csrrw` of that word would (here from x31, which holds it for this comparison);
without an operand (register number 0, immediate 0) nothing is written. Which half a form suppresses is the spec's
decision D34 (log 7). -/
def Obligations.CsrSetClearForms : Prop :=
  ∀ (s : State) (rd rs1 : RegNum) (a : CsrAddr) (uimm : BitVec 5),
    EncodedAs (a ++ rs1 ++ 0b010#3 ++ rd ++ 0b1110011#7) (.csrrs rd a rs1) ∧
    EncodedAs (a ++ rs1 ++ 0b011#3 ++ rd ++ 0b1110011#7) (.csrrc rd a rs1) ∧
    EncodedAs (a ++ uimm ++ 0b110#3 ++ rd ++ 0b1110011#7) (.csrrsi rd a uimm) ∧
    EncodedAs (a ++ uimm ++ 0b111#3 ++ rd ++ 0b1110011#7) (.csrrci rd a uimm) ∧
    (csrImplemented a = true → csrWriteOnly a = false → a ≠ 0x344#12 →
      ∀ (i : Instr) (v : Word),
        (rs1 ≠ 0#5 ∧ i = .csrrs rd a rs1 ∧ v = s.csrRead a ||| s.readReg rs1) ∨
        (rs1 ≠ 0#5 ∧ i = .csrrc rd a rs1 ∧ v = s.csrRead a &&& ~~~s.readReg rs1) ∨
        (uimm ≠ 0#5 ∧ i = .csrrsi rd a uimm ∧ v = s.csrRead a ||| BitVec.ofNat 32 uimm.toNat) ∨
        (uimm ≠ 0#5 ∧ i = .csrrci rd a uimm ∧ v = s.csrRead a &&& ~~~BitVec.ofNat 32 uimm.toNat) →
        ∃ t u, exec i s = .next t ∧ exec (.csrrw 0#5 a 31#5) (s.writeReg 31#5 v) = .next u ∧
          CsrResult s t rd (s.csrRead a) u) ∧
    (csrImplemented a = true →
      (∃ t, exec (.csrrs rd a 0#5) s = .next t ∧
        RegisterResult s { t with freeIndex := s.freeIndex } rd (s.csrRead a) (s.pc + 4)) ∧
      exec (.csrrc rd a 0#5) s = exec (.csrrs rd a 0#5) s ∧
      exec (.csrrsi rd a 0#5) s = exec (.csrrs rd a 0#5) s ∧
      exec (.csrrci rd a 0#5) s = exec (.csrrs rd a 0#5) s)

/-- 10_state.md R32, R41, 48_csr.md R276, R277: the accesses that are refused, whatever `rd` is: an unimplemented
address in all six forms, a write to `mip` in every form that writes, a set or clear form that would write a write-
only register, and `csrrw` or `csrrwi` of a value that `msip`, `mprints` or `mends` gives no meaning (every immediate
has one for `mprints`). The spec's own decisions D13, D15, D16, D25, D34; their order is the model's choice (logs 7,
29). -/
def Obligations.CsrRefusals : Prop :=
  ∀ (s : State) (rd rs1 : RegNum) (a : CsrAddr) (uimm : BitVec 5),
    (csrImplemented a = false →
      exec (.csrrw rd a rs1) s = .refused .unimplementedCsr ∧ exec (.csrrs rd a rs1) s = .refused .unimplementedCsr ∧
      exec (.csrrc rd a rs1) s = .refused .unimplementedCsr ∧ exec (.csrrwi rd a uimm) s = .refused .unimplementedCsr ∧
      exec (.csrrsi rd a uimm) s = .refused .unimplementedCsr ∧
      exec (.csrrci rd a uimm) s = .refused .unimplementedCsr) ∧
    (exec (.csrrw rd 0x344#12 rs1) s = .refused .writeToMip ∧ exec (.csrrwi rd 0x344#12 uimm) s = .refused .writeToMip ∧
      (rs1 ≠ 0#5 → exec (.csrrs rd 0x344#12 rs1) s = .refused .writeToMip ∧
        exec (.csrrc rd 0x344#12 rs1) s = .refused .writeToMip) ∧
      (uimm ≠ 0#5 → exec (.csrrsi rd 0x344#12 uimm) s = .refused .writeToMip ∧
        exec (.csrrci rd 0x344#12 uimm) s = .refused .writeToMip)) ∧
    (csrWriteOnly a = true →
      (rs1 ≠ 0#5 → exec (.csrrs rd a rs1) s = .refused .setClearOnWriteOnlyCsr ∧
        exec (.csrrc rd a rs1) s = .refused .setClearOnWriteOnlyCsr) ∧
      (uimm ≠ 0#5 → exec (.csrrsi rd a uimm) s = .refused .setClearOnWriteOnlyCsr ∧
        exec (.csrrci rd a uimm) s = .refused .setClearOnWriteOnlyCsr)) ∧
    ((1 < (s.readReg rs1).toNat → exec (.csrrw rd 0x345#12 rs1) s = .refused .msipValue) ∧
      (1 < uimm.toNat → exec (.csrrwi rd 0x345#12 uimm) s = .refused .msipValue) ∧
      (255 < (s.readReg rs1).toNat → exec (.csrrw rd 0x346#12 rs1) s = .refused .mprintsValue) ∧
      ((s.readReg rs1).toNat ≠ 1 → exec (.csrrw rd 0x347#12 rs1) s = .refused .mendsValue) ∧
      (uimm.toNat ≠ 1 → exec (.csrrwi rd 0x347#12 uimm) s = .refused .mendsValue))

/-- 60_exceptions.md R328, R373, R375, through the step's own checks: a request made through `msip` is what `mip`
shows and what makes the software interrupt takeable; a trap entry and an `mret` keep it, a write of 0 withdraws it; a
write to `mcctr` with bit 3 stops the run after it; so does a write of 1 to `mends`. That nothing else withdraws the
request is `MsipPendingChangedOnlyBy`. The spec's own decisions D16, D24, D25 (logs 7, 18). -/
def Obligations.CustomCsrEffects : Prop :=
  (∀ (s t : State) (rd : RegNum), exec (.csrrwi rd 0x345#12 1#5) s = .next t →
    (t.csrRead 0x344#12).getLsbD 3 = true ∧
    (s.csrs.msie = true → s.csrs.mie = true → TrapCause.software ∈ t.takeable) ∧
    (∀ c, (t.takeTrap c).csrs.msipPending = true) ∧
    (∀ u, exec .mret t = .next u → u.csrs.msipPending = true) ∧
    (∀ u, exec (.csrrwi rd 0x345#12 0#5) t = .next u →
      (u.csrRead 0x344#12).getLsbD 3 = false ∧ TrapCause.software ∉ u.takeable)) ∧
  (∀ (s t : State) (rd rs1 : RegNum), s.simEnded = false → (s.readReg rs1).getLsbD 3 = true →
    exec (.csrrw rd 0xB88#12 rs1) s = .next t → t.csrs.mcctr.getLsbD 3 = true ∧ t.softResetReq = true ∧
      step t = .refused .softResetRequested) ∧
  (∀ (s t : State) (rd : RegNum), exec (.csrrwi rd 0x347#12 1#5) s = .next t → step t = .fault .simulationEnded)

/-! ### Loads and stores (42_load.md, 43_store.md, 20_memory.md) -/

/-- 42_load.md R200 to R206: the five loads from memory: the address modulo 2^32, the bytes little-endian, sign or
zero extension, the result in `rd` (discarded for x0), nothing else changed. The byte order, and that a load to x0 is
performed, are the spec's decisions D1, D40 (log 7). -/
def Obligations.LoadsFromMemory : Prop :=
  ∀ (s : State) (rd rs1 : RegNum) (imm : BitVec 12),
    EncodedAs (imm ++ rs1 ++ 0b000#3 ++ rd ++ 0b0000011#7) (.lb rd rs1 imm) ∧
    EncodedAs (imm ++ rs1 ++ 0b001#3 ++ rd ++ 0b0000011#7) (.lh rd rs1 imm) ∧
    EncodedAs (imm ++ rs1 ++ 0b010#3 ++ rd ++ 0b0000011#7) (.lw rd rs1 imm) ∧
    EncodedAs (imm ++ rs1 ++ 0b100#3 ++ rd ++ 0b0000011#7) (.lbu rd rs1 imm) ∧
    EncodedAs (imm ++ rs1 ++ 0b101#3 ++ rd ++ 0b0000011#7) (.lhu rd rs1 imm) ∧
    s.effectiveAddress rs1 imm = BitVec.ofInt 32 ((s.readReg rs1).toNat + imm.toInt) ∧
    ∀ ea : Word, ea = s.effectiveAddress rs1 imm →
      (ReachesMemory s ea 1 false →
        (∃ t v, exec (.lb rd rs1 imm) s = .next t ∧ RegisterResult s t rd v (s.pc + 4) ∧
          v.toInt = (s.byteAt ea.toNat).toInt) ∧
        (∃ t v, exec (.lbu rd rs1 imm) s = .next t ∧ RegisterResult s t rd v (s.pc + 4) ∧
          v.toNat = (s.byteAt ea.toNat).toNat)) ∧
      (ReachesMemory s ea 2 false →
        (∃ t v, exec (.lh rd rs1 imm) s = .next t ∧ RegisterResult s t rd v (s.pc + 4) ∧
          v.toInt = (s.byteAt (ea.toNat + 1)).toInt * 256 + (s.byteAt ea.toNat).toNat) ∧
        (∃ t v, exec (.lhu rd rs1 imm) s = .next t ∧ RegisterResult s t rd v (s.pc + 4) ∧
          v.toNat = (s.byteAt (ea.toNat + 1)).toNat * 256 + (s.byteAt ea.toNat).toNat)) ∧
      (ReachesMemory s ea 4 false →
        ∃ t v, exec (.lw rd rs1 imm) s = .next t ∧ RegisterResult s t rd v (s.pc + 4) ∧
          v.toNat = (s.byteAt (ea.toNat + 3)).toNat * 2 ^ 24 + (s.byteAt (ea.toNat + 2)).toNat * 2 ^ 16 +
            (s.byteAt (ea.toNat + 1)).toNat * 2 ^ 8 + (s.byteAt ea.toNat).toNat)

/-- 20_memory.md R91 with 42_load.md R200 to R204: a device answers a read with some value of the width, extended as
the load says; a device write changes no architectural state; the instruction completes. The spec's own decision D40
for x0; the free answer is log 14. -/
def Obligations.DeviceAccesses : Prop :=
  ∀ (s : State) (rd rs1 rs2 : RegNum) (imm : BitVec 12) (ea : Word), ea = s.effectiveAddress rs1 imm →
    (Reaches s ea 1 false .device →
      (∃ t v, exec (.lb rd rs1 imm) s = .next t ∧ -128 ≤ v.toInt ∧ v.toInt < 128 ∧
        RegisterResult s { t with freeIndex := s.freeIndex } rd v (s.pc + 4)) ∧
      (∃ t v, exec (.lbu rd rs1 imm) s = .next t ∧ v.toNat < 256 ∧
        RegisterResult s { t with freeIndex := s.freeIndex } rd v (s.pc + 4))) ∧
    (Reaches s ea 2 false .device →
      (∃ t v, exec (.lh rd rs1 imm) s = .next t ∧ -32768 ≤ v.toInt ∧ v.toInt < 32768 ∧
        RegisterResult s { t with freeIndex := s.freeIndex } rd v (s.pc + 4)) ∧
      (∃ t v, exec (.lhu rd rs1 imm) s = .next t ∧ v.toNat < 65536 ∧
        RegisterResult s { t with freeIndex := s.freeIndex } rd v (s.pc + 4))) ∧
    (Reaches s ea 4 false .device → ∃ t v, exec (.lw rd rs1 imm) s = .next t ∧
      RegisterResult s { t with freeIndex := s.freeIndex } rd v (s.pc + 4)) ∧
    (Reaches s ea 1 true .device → ∃ t, exec (.sb rs2 rs1 imm) s = .next t ∧ OnlyPc s t (s.pc + 4)) ∧
    (Reaches s ea 2 true .device → ∃ t, exec (.sh rs2 rs1 imm) s = .next t ∧ OnlyPc s t (s.pc + 4)) ∧
    (Reaches s ea 4 true .device → ∃ t, exec (.sw rs2 rs1 imm) s = .next t ∧ OnlyPc s t (s.pc + 4))

/-- 20_memory.md R89, R94, R95: a load or store stops, in this order, when the address is no multiple of the width,
when no range permits the access, when the bus answers with an error. The spec's own decisions D2, D30, D29 (logs 7,
15, 17). -/
def Obligations.AccessStops : Prop :=
  ∀ (s : State) (r rs1 : RegNum) (imm : BitVec 12) (i : Instr) (n : Nat) (write : Bool) (ea : Word),
    ea = s.effectiveAddress rs1 imm →
    (i, n, write) ∈ [(Instr.lb r rs1 imm, 1, false), (Instr.lbu r rs1 imm, 1, false), (Instr.lh r rs1 imm, 2, false),
      (Instr.lhu r rs1 imm, 2, false), (Instr.lw r rs1 imm, 4, false), (Instr.sb r rs1 imm, 1, true),
      (Instr.sh r rs1 imm, 2, true), (Instr.sw r rs1 imm, 4, true)] →
    (ea.toNat % n ≠ 0 → exec i s = .refused .misalignedDataAccess) ∧
    (ea.toNat % n = 0 → Config.dataRegion s.config ea.toNat n write = none →
      exec i s = .fault (.unmappedAddress ea)) ∧
    (ea.toNat % n = 0 → (∃ q, Config.dataRegion s.config ea.toNat n write = some q ∧ q.answersError = true) →
      exec i s = .refused .busErrorResponse)

/-- 43_store.md R215 to R218, 20_memory.md R100: the three stores to memory: exactly the low bytes of `x[rs2]` stand
at the effective address, little-endian; no register changes; a store to data memory leaves the record of stored code
as it was, one to the program memory adds exactly its addresses. The byte order is the spec's decision D1, the record
follows D26 (logs 7, 20). -/
def Obligations.StoresToMemory : Prop :=
  ∀ (s : State) (rs2 rs1 : RegNum) (imm : BitVec 12),
    EncodedAs (imm.extractLsb' 5 7 ++ rs2 ++ rs1 ++ 0b000#3 ++ imm.extractLsb' 0 5 ++ 0b0100011#7) (.sb rs2 rs1 imm) ∧
    EncodedAs (imm.extractLsb' 5 7 ++ rs2 ++ rs1 ++ 0b001#3 ++ imm.extractLsb' 0 5 ++ 0b0100011#7) (.sh rs2 rs1 imm) ∧
    EncodedAs (imm.extractLsb' 5 7 ++ rs2 ++ rs1 ++ 0b010#3 ++ imm.extractLsb' 0 5 ++ 0b0100011#7) (.sw rs2 rs1 imm) ∧
    s.effectiveAddress rs1 imm = BitVec.ofInt 32 ((s.readReg rs1).toNat + imm.toInt) ∧
    ∀ ea : Word, ea = s.effectiveAddress rs1 imm →
      (ReachesMemory s ea 1 true →
        ∃ t, exec (.sb rs2 rs1 imm) s = .next t ∧ Stored s t ea (s.readReg rs2) 1 ∧ CodeRecord s t ea 1) ∧
      (ReachesMemory s ea 2 true →
        ∃ t, exec (.sh rs2 rs1 imm) s = .next t ∧ Stored s t ea (s.readReg rs2) 2 ∧ CodeRecord s t ea 2) ∧
      (ReachesMemory s ea 4 true →
        ∃ t, exec (.sw rs2 rs1 imm) s = .next t ∧ Stored s t ea (s.readReg rs2) 4 ∧ CodeRecord s t ea 4)

/-- 20_memory.md R85: the rule's own example of accesses of different widths, at any aligned word of data memory.
Derived in the spec from R84 with decision D1, R86 and R87 (log 7). -/
def Obligations.MixedWidthExample : Prop :=
  ∀ (s t : State) (a : Word), a.toNat % 4 = 0 → s.readReg 1#5 = a → s.readReg 2#5 = 0x44332211#32 →
    s.readReg 4#5 = 0x000000EE#32 →
    (∀ (b n : Nat) (write : Bool), a.toNat ≤ b → b + n ≤ a.toNat + 4 → 0 < n →
      ∃ r, Config.dataRegion s.config b n write = some r ∧ r.answersError = false ∧ r.kind = .dataMemory) →
    exec (.sw 2 1 0) s = .next t →
    (∃ u, exec (.lbu 3 1 0) t = .next u ∧ u.readReg 3#5 = 0x11#32) ∧
    (∃ u, exec (.lbu 3 1 1) t = .next u ∧ u.readReg 3#5 = 0x22#32) ∧
    (∃ u, exec (.lbu 3 1 2) t = .next u ∧ u.readReg 3#5 = 0x33#32) ∧
    (∃ u, exec (.lbu 3 1 3) t = .next u ∧ u.readReg 3#5 = 0x44#32) ∧
    (∃ u, exec (.lhu 3 1 0) t = .next u ∧ u.readReg 3#5 = 0x2211#32) ∧
    (∃ u, exec (.lhu 3 1 2) t = .next u ∧ u.readReg 3#5 = 0x4433#32) ∧
    (∃ u v, exec (.sb 4 1 1) t = .next u ∧ exec (.lw 3 1 0) u = .next v ∧ v.readReg 3#5 = 0x4433EE11#32)

/-- 20_memory.md R100, the state right after a store into the program memory: there a fetch of any word of which a
byte was stored is refused, at whatever pc, and a fetch of a word of which no byte was stored answers what it answered
before. That later steps keep the record is `StoredCodeNeverFetchedAgain`. The spec's own decision D26 (logs 7, 20).
-/
def Obligations.StoredCodeNotFetched : Prop :=
  ∀ (s t : State) (rs2 rs1 : RegNum) (imm : BitVec 12) (i : Instr) (n : Nat) (ea p : Word),
    ea = s.effectiveAddress rs1 imm →
    (i, n) ∈ [(Instr.sb rs2 rs1 imm, 1), (Instr.sh rs2 rs1 imm, 2), (Instr.sw rs2 rs1 imm, 4)] →
    Reaches s ea n true .programMemory → exec i s = .next t →
    p.toNat % 4 = 0 → Config.inProgramMemory s.config p.toNat 4 = true →
    ((∃ b, ea.toNat ≤ b ∧ b < ea.toNat + n ∧ p.toNat ≤ b ∧ b < p.toNat + 4) →
      (t.setPc p).fetch = .error .fetchOfModifiedCode) ∧
    ((∀ b, ea.toNat ≤ b → b < ea.toNat + n → ¬ (p.toNat ≤ b ∧ b < p.toNat + 4)) →
      (t.setPc p).fetch = (s.setPc p).fetch)

/-! ### Branches, jumps, upper immediates (44_branch.md, 45_jump.md, 46_upper_imm.md) -/

/-- 44_branch.md R230, R231, R237: `beq` and `bne`; only the pc changes, to the target modulo 2^32 or to pc + 4. -/
def Obligations.BranchesOnEquality : Prop :=
  ∀ (s : State) (rs1 rs2 : RegNum) (f : BitVec 12) (o : BitVec 13), o = f ++ 0#1 →
    EncodedAs (o.extractLsb' 12 1 ++ o.extractLsb' 5 6 ++ rs2 ++ rs1 ++ 0b000#3 ++ o.extractLsb' 1 4 ++
      o.extractLsb' 11 1 ++ 0b1100011#7) (.beq rs1 rs2 o) ∧
    EncodedAs (o.extractLsb' 12 1 ++ o.extractLsb' 5 6 ++ rs2 ++ rs1 ++ 0b001#3 ++ o.extractLsb' 1 4 ++
      o.extractLsb' 11 1 ++ 0b1100011#7) (.bne rs1 rs2 o) ∧
    (∃ t, exec (.beq rs1 rs2 o) s = .next t ∧
      OnlyPc s t (if s.readReg rs1 = s.readReg rs2 then BitVec.ofInt 32 (s.pc.toNat + o.toInt) else s.pc + 4)) ∧
    (∃ t, exec (.bne rs1 rs2 o) s = .next t ∧
      OnlyPc s t (if s.readReg rs1 ≠ s.readReg rs2 then BitVec.ofInt 32 (s.pc.toNat + o.toInt) else s.pc + 4))

/-- 44_branch.md R232, R233: `blt` and `bge` compare the two's-complement readings. -/
def Obligations.BranchesSigned : Prop :=
  ∀ (s : State) (rs1 rs2 : RegNum) (f : BitVec 12) (o : BitVec 13), o = f ++ 0#1 →
    EncodedAs (o.extractLsb' 12 1 ++ o.extractLsb' 5 6 ++ rs2 ++ rs1 ++ 0b100#3 ++ o.extractLsb' 1 4 ++
      o.extractLsb' 11 1 ++ 0b1100011#7) (.blt rs1 rs2 o) ∧
    EncodedAs (o.extractLsb' 12 1 ++ o.extractLsb' 5 6 ++ rs2 ++ rs1 ++ 0b101#3 ++ o.extractLsb' 1 4 ++
      o.extractLsb' 11 1 ++ 0b1100011#7) (.bge rs1 rs2 o) ∧
    (∃ t, exec (.blt rs1 rs2 o) s = .next t ∧ OnlyPc s t
      (if (s.readReg rs1).toInt < (s.readReg rs2).toInt then BitVec.ofInt 32 (s.pc.toNat + o.toInt) else s.pc + 4)) ∧
    (∃ t, exec (.bge rs1 rs2 o) s = .next t ∧ OnlyPc s t
      (if (s.readReg rs2).toInt ≤ (s.readReg rs1).toInt then BitVec.ofInt 32 (s.pc.toNat + o.toInt) else s.pc + 4))

/-- 44_branch.md R234, R235: `bltu` and `bgeu` compare the unsigned readings. -/
def Obligations.BranchesUnsigned : Prop :=
  ∀ (s : State) (rs1 rs2 : RegNum) (f : BitVec 12) (o : BitVec 13), o = f ++ 0#1 →
    EncodedAs (o.extractLsb' 12 1 ++ o.extractLsb' 5 6 ++ rs2 ++ rs1 ++ 0b110#3 ++ o.extractLsb' 1 4 ++
      o.extractLsb' 11 1 ++ 0b1100011#7) (.bltu rs1 rs2 o) ∧
    EncodedAs (o.extractLsb' 12 1 ++ o.extractLsb' 5 6 ++ rs2 ++ rs1 ++ 0b111#3 ++ o.extractLsb' 1 4 ++
      o.extractLsb' 11 1 ++ 0b1100011#7) (.bgeu rs1 rs2 o) ∧
    (∃ t, exec (.bltu rs1 rs2 o) s = .next t ∧ OnlyPc s t
      (if (s.readReg rs1).toNat < (s.readReg rs2).toNat then BitVec.ofInt 32 (s.pc.toNat + o.toInt) else s.pc + 4)) ∧
    (∃ t, exec (.bgeu rs1 rs2 o) s = .next t ∧ OnlyPc s t
      (if (s.readReg rs2).toNat ≤ (s.readReg rs1).toNat then BitVec.ofInt 32 (s.pc.toNat + o.toInt) else s.pc + 4))

/-- 45_jump.md R245, R246: `jal` and `jalr` write the link pc + 4 and go to the target; `jalr` reads its base before
it writes the link, and with bit 0 of the target set it is refused. That an odd target is refused is the spec's
decision D4, that any other is set as computed D3 (log 7). -/
def Obligations.JumpsLink : Prop :=
  ∀ (s : State) (rd rs1 : RegNum) (imm : BitVec 12) (f : BitVec 20) (o : BitVec 21), o = f ++ 0#1 →
    EncodedAs (o.extractLsb' 20 1 ++ o.extractLsb' 1 10 ++ o.extractLsb' 11 1 ++ o.extractLsb' 12 8 ++ rd ++
      0b1101111#7) (.jal rd o) ∧
    EncodedAs (imm ++ rs1 ++ 0b000#3 ++ rd ++ 0b1100111#7) (.jalr rd rs1 imm) ∧
    (∃ t, exec (.jal rd o) s = .next t ∧
      RegisterResult s t rd (s.pc + 4) (BitVec.ofInt 32 (s.pc.toNat + o.toInt))) ∧
    (((s.readReg rs1).toNat + imm.toInt) % 2 = 0 → ∃ t, exec (.jalr rd rs1 imm) s = .next t ∧
      RegisterResult s t rd (s.pc + 4) (BitVec.ofInt 32 ((s.readReg rs1).toNat + imm.toInt))) ∧
    (((s.readReg rs1).toNat + imm.toInt) % 2 = 1 → exec (.jalr rd rs1 imm) s = .refused .jalrOddTarget)

/-- 46_upper_imm.md R255, R256: `lui` and `auipc`. -/
def Obligations.UpperImmediates : Prop :=
  ∀ (s : State) (rd : RegNum) (imm20 : BitVec 20),
    EncodedAs (imm20 ++ rd ++ 0b0110111#7) (.lui rd imm20) ∧
    EncodedAs (imm20 ++ rd ++ 0b0010111#7) (.auipc rd imm20) ∧
    (∃ t v, exec (.lui rd imm20) s = .next t ∧ RegisterResult s t rd v (s.pc + 4) ∧ v.toNat = imm20.toNat * 4096) ∧
    (∃ t v, exec (.auipc rd imm20) s = .next t ∧ RegisterResult s t rd v (s.pc + 4) ∧
      v.toNat = (s.pc.toNat + imm20.toNat * 4096) % 2 ^ 32)

/-! ### Arithmetic (40_alu_reg.md, 41_alu_imm.md, 49_m_ext.md) -/

/-- 40_alu_reg.md R160, R161 and 41_alu_imm.md R180: sums and differences modulo 2^32. -/
def Obligations.AddSubtract : Prop :=
  ∀ (s : State) (rd rs1 rs2 : RegNum) (imm : BitVec 12),
    EncodedAs (0b0000000#7 ++ rs2 ++ rs1 ++ 0b000#3 ++ rd ++ 0b0110011#7) (.add rd rs1 rs2) ∧
    EncodedAs (0b0100000#7 ++ rs2 ++ rs1 ++ 0b000#3 ++ rd ++ 0b0110011#7) (.sub rd rs1 rs2) ∧
    EncodedAs (imm ++ rs1 ++ 0b000#3 ++ rd ++ 0b0010011#7) (.addi rd rs1 imm) ∧
    (∃ t v, exec (.add rd rs1 rs2) s = .next t ∧ RegisterResult s t rd v (s.pc + 4) ∧
      v.toNat = ((s.readReg rs1).toNat + (s.readReg rs2).toNat) % 2 ^ 32) ∧
    (∃ t v, exec (.sub rd rs1 rs2) s = .next t ∧ RegisterResult s t rd v (s.pc + 4) ∧
      (v.toNat : Int) = ((s.readReg rs1).toNat - (s.readReg rs2).toNat : Int) % 2 ^ 32) ∧
    (∃ t v, exec (.addi rd rs1 imm) s = .next t ∧ RegisterResult s t rd v (s.pc + 4) ∧
      (v.toNat : Int) = ((s.readReg rs1).toNat + imm.toInt) % 2 ^ 32)

/-- 40_alu_reg.md R162, R163, R164: the bitwise operations, bit by bit. -/
def Obligations.BitwiseRegister : Prop :=
  ∀ (s : State) (rd rs1 rs2 : RegNum),
    EncodedAs (0b0000000#7 ++ rs2 ++ rs1 ++ 0b100#3 ++ rd ++ 0b0110011#7) (.xor rd rs1 rs2) ∧
    EncodedAs (0b0000000#7 ++ rs2 ++ rs1 ++ 0b110#3 ++ rd ++ 0b0110011#7) (.or rd rs1 rs2) ∧
    EncodedAs (0b0000000#7 ++ rs2 ++ rs1 ++ 0b111#3 ++ rd ++ 0b0110011#7) (.and rd rs1 rs2) ∧
    (∃ t v, exec (.xor rd rs1 rs2) s = .next t ∧ RegisterResult s t rd v (s.pc + 4) ∧
      ∀ k < 32, v.getLsbD k = ((s.readReg rs1).getLsbD k != (s.readReg rs2).getLsbD k)) ∧
    (∃ t v, exec (.or rd rs1 rs2) s = .next t ∧ RegisterResult s t rd v (s.pc + 4) ∧
      ∀ k < 32, v.getLsbD k = ((s.readReg rs1).getLsbD k || (s.readReg rs2).getLsbD k)) ∧
    (∃ t v, exec (.and rd rs1 rs2) s = .next t ∧ RegisterResult s t rd v (s.pc + 4) ∧
      ∀ k < 32, v.getLsbD k = ((s.readReg rs1).getLsbD k && (s.readReg rs2).getLsbD k))

/-- 41_alu_imm.md R181, R182, R183: the same with the sign-extended immediate, whose bit 11 stands for every bit above. -/
def Obligations.BitwiseImmediate : Prop :=
  ∀ (s : State) (rd rs1 : RegNum) (imm : BitVec 12),
    EncodedAs (imm ++ rs1 ++ 0b100#3 ++ rd ++ 0b0010011#7) (.xori rd rs1 imm) ∧
    EncodedAs (imm ++ rs1 ++ 0b110#3 ++ rd ++ 0b0010011#7) (.ori rd rs1 imm) ∧
    EncodedAs (imm ++ rs1 ++ 0b111#3 ++ rd ++ 0b0010011#7) (.andi rd rs1 imm) ∧
    (∃ t v, exec (.xori rd rs1 imm) s = .next t ∧ RegisterResult s t rd v (s.pc + 4) ∧
      ∀ k < 32, v.getLsbD k = ((s.readReg rs1).getLsbD k != imm.getLsbD (min k 11))) ∧
    (∃ t v, exec (.ori rd rs1 imm) s = .next t ∧ RegisterResult s t rd v (s.pc + 4) ∧
      ∀ k < 32, v.getLsbD k = ((s.readReg rs1).getLsbD k || imm.getLsbD (min k 11))) ∧
    (∃ t v, exec (.andi rd rs1 imm) s = .next t ∧ RegisterResult s t rd v (s.pc + 4) ∧
      ∀ k < 32, v.getLsbD k = ((s.readReg rs1).getLsbD k && imm.getLsbD (min k 11)))

/-- 40_alu_reg.md R165, R166, R167: shifts by the low five bits of `x[rs2]`, as arithmetic on the readings: `sra` is the
floor of the signed quotient. -/
def Obligations.ShiftsRegister : Prop :=
  ∀ (s : State) (rd rs1 rs2 : RegNum),
    EncodedAs (0b0000000#7 ++ rs2 ++ rs1 ++ 0b001#3 ++ rd ++ 0b0110011#7) (.sll rd rs1 rs2) ∧
    EncodedAs (0b0000000#7 ++ rs2 ++ rs1 ++ 0b101#3 ++ rd ++ 0b0110011#7) (.srl rd rs1 rs2) ∧
    EncodedAs (0b0100000#7 ++ rs2 ++ rs1 ++ 0b101#3 ++ rd ++ 0b0110011#7) (.sra rd rs1 rs2) ∧
    (∃ t v, exec (.sll rd rs1 rs2) s = .next t ∧ RegisterResult s t rd v (s.pc + 4) ∧
      v.toNat = (s.readReg rs1).toNat * 2 ^ ((s.readReg rs2).toNat % 32) % 2 ^ 32) ∧
    (∃ t v, exec (.srl rd rs1 rs2) s = .next t ∧ RegisterResult s t rd v (s.pc + 4) ∧
      v.toNat = (s.readReg rs1).toNat / 2 ^ ((s.readReg rs2).toNat % 32)) ∧
    (∃ t v, exec (.sra rd rs1 rs2) s = .next t ∧ RegisterResult s t rd v (s.pc + 4) ∧
      v.toInt = (s.readReg rs1).toInt.fdiv (2 ^ ((s.readReg rs2).toNat % 32)))

/-- 41_alu_imm.md R184, R185, R186: the same with the amount in the instruction. -/
def Obligations.ShiftsImmediate : Prop :=
  ∀ (s : State) (rd rs1 : RegNum) (shamt : BitVec 5),
    EncodedAs (0b0000000#7 ++ shamt ++ rs1 ++ 0b001#3 ++ rd ++ 0b0010011#7) (.slli rd rs1 shamt) ∧
    EncodedAs (0b0000000#7 ++ shamt ++ rs1 ++ 0b101#3 ++ rd ++ 0b0010011#7) (.srli rd rs1 shamt) ∧
    EncodedAs (0b0100000#7 ++ shamt ++ rs1 ++ 0b101#3 ++ rd ++ 0b0010011#7) (.srai rd rs1 shamt) ∧
    (∃ t v, exec (.slli rd rs1 shamt) s = .next t ∧ RegisterResult s t rd v (s.pc + 4) ∧
      v.toNat = (s.readReg rs1).toNat * 2 ^ shamt.toNat % 2 ^ 32) ∧
    (∃ t v, exec (.srli rd rs1 shamt) s = .next t ∧ RegisterResult s t rd v (s.pc + 4) ∧
      v.toNat = (s.readReg rs1).toNat / 2 ^ shamt.toNat) ∧
    (∃ t v, exec (.srai rd rs1 shamt) s = .next t ∧ RegisterResult s t rd v (s.pc + 4) ∧
      v.toInt = (s.readReg rs1).toInt.fdiv (2 ^ shamt.toNat))

/-- 40_alu_reg.md R168, R169 and 41_alu_imm.md R187, R188: comparisons write 1 or 0; the immediate is sign-extended also
for the unsigned one. -/
def Obligations.Comparisons : Prop :=
  ∀ (s : State) (rd rs1 rs2 : RegNum) (imm : BitVec 12),
    EncodedAs (0b0000000#7 ++ rs2 ++ rs1 ++ 0b010#3 ++ rd ++ 0b0110011#7) (.slt rd rs1 rs2) ∧
    EncodedAs (0b0000000#7 ++ rs2 ++ rs1 ++ 0b011#3 ++ rd ++ 0b0110011#7) (.sltu rd rs1 rs2) ∧
    EncodedAs (imm ++ rs1 ++ 0b010#3 ++ rd ++ 0b0010011#7) (.slti rd rs1 imm) ∧
    EncodedAs (imm ++ rs1 ++ 0b011#3 ++ rd ++ 0b0010011#7) (.sltiu rd rs1 imm) ∧
    (∃ t v, exec (.slt rd rs1 rs2) s = .next t ∧ RegisterResult s t rd v (s.pc + 4) ∧
      v.toNat = if (s.readReg rs1).toInt < (s.readReg rs2).toInt then 1 else 0) ∧
    (∃ t v, exec (.sltu rd rs1 rs2) s = .next t ∧ RegisterResult s t rd v (s.pc + 4) ∧
      v.toNat = if (s.readReg rs1).toNat < (s.readReg rs2).toNat then 1 else 0) ∧
    (∃ t v, exec (.slti rd rs1 imm) s = .next t ∧ RegisterResult s t rd v (s.pc + 4) ∧
      v.toNat = if (s.readReg rs1).toInt < imm.toInt then 1 else 0) ∧
    (∃ t v, exec (.sltiu rd rs1 imm) s = .next t ∧ RegisterResult s t rd v (s.pc + 4) ∧
      v.toNat = if ((s.readReg rs1).toNat : Int) < imm.toInt % 2 ^ 32 then 1 else 0)

/-- 49_m_ext.md R300 to R303: the low half and the three high halves of the exact product. -/
def Obligations.Multiplications : Prop :=
  ∀ (s : State) (rd rs1 rs2 : RegNum),
    EncodedAs (0b0000001#7 ++ rs2 ++ rs1 ++ 0b000#3 ++ rd ++ 0b0110011#7) (.mul rd rs1 rs2) ∧
    EncodedAs (0b0000001#7 ++ rs2 ++ rs1 ++ 0b011#3 ++ rd ++ 0b0110011#7) (.mulhu rd rs1 rs2) ∧
    EncodedAs (0b0000001#7 ++ rs2 ++ rs1 ++ 0b001#3 ++ rd ++ 0b0110011#7) (.mulh rd rs1 rs2) ∧
    EncodedAs (0b0000001#7 ++ rs2 ++ rs1 ++ 0b010#3 ++ rd ++ 0b0110011#7) (.mulhsu rd rs1 rs2) ∧
    (∃ t v, exec (.mul rd rs1 rs2) s = .next t ∧ RegisterResult s t rd v (s.pc + 4) ∧
      v.toNat = (s.readReg rs1).toNat * (s.readReg rs2).toNat % 2 ^ 32) ∧
    (∃ t v, exec (.mulhu rd rs1 rs2) s = .next t ∧ RegisterResult s t rd v (s.pc + 4) ∧
      v.toNat = (s.readReg rs1).toNat * (s.readReg rs2).toNat / 2 ^ 32) ∧
    (∃ t v, exec (.mulh rd rs1 rs2) s = .next t ∧ RegisterResult s t rd v (s.pc + 4) ∧
      v.toInt = ((s.readReg rs1).toInt * (s.readReg rs2).toInt).fdiv (2 ^ 32)) ∧
    (∃ t v, exec (.mulhsu rd rs1 rs2) s = .next t ∧ RegisterResult s t rd v (s.pc + 4) ∧
      v.toInt = ((s.readReg rs1).toInt * (s.readReg rs2).toNat).fdiv (2 ^ 32))

/-- 49_m_ext.md R304, R306, R309: signed division and remainder: toward zero, the remainder with the dividend's sign;
by zero and at the overflow the values of R309; where neither, dividend = divisor * quotient + remainder. -/
def Obligations.SignedDivision : Prop :=
  ∀ (s : State) (rd rs1 rs2 : RegNum),
    EncodedAs (0b0000001#7 ++ rs2 ++ rs1 ++ 0b100#3 ++ rd ++ 0b0110011#7) (.div rd rs1 rs2) ∧
    EncodedAs (0b0000001#7 ++ rs2 ++ rs1 ++ 0b110#3 ++ rd ++ 0b0110011#7) (.rem rd rs1 rs2) ∧
    ∀ a b : Int, a = (s.readReg rs1).toInt → b = (s.readReg rs2).toInt →
      ∃ t u q m, exec (.div rd rs1 rs2) s = .next t ∧ RegisterResult s t rd q (s.pc + 4) ∧
        exec (.rem rd rs1 rs2) s = .next u ∧ RegisterResult s u rd m (s.pc + 4) ∧
        (b = 0 → q = 0xFFFFFFFF#32 ∧ m = s.readReg rs1) ∧
        (a = -2 ^ 31 → b = -1 → q = 0x80000000#32 ∧ m = 0#32) ∧
        (b ≠ 0 → ¬ (a = -2 ^ 31 ∧ b = -1) →
          q.toInt = a.tdiv b ∧ m.toInt = a.tmod b ∧ a = b * q.toInt + m.toInt ∧ m.toInt.natAbs < b.natAbs ∧
          (m.toInt ≠ 0 → (m.toInt < 0 ↔ a < 0)))

/-- 49_m_ext.md R305, R307, R309: unsigned division and remainder. -/
def Obligations.UnsignedDivision : Prop :=
  ∀ (s : State) (rd rs1 rs2 : RegNum),
    EncodedAs (0b0000001#7 ++ rs2 ++ rs1 ++ 0b101#3 ++ rd ++ 0b0110011#7) (.divu rd rs1 rs2) ∧
    EncodedAs (0b0000001#7 ++ rs2 ++ rs1 ++ 0b111#3 ++ rd ++ 0b0110011#7) (.remu rd rs1 rs2) ∧
    ∀ a b : Nat, a = (s.readReg rs1).toNat → b = (s.readReg rs2).toNat →
      ∃ t u q m, exec (.divu rd rs1 rs2) s = .next t ∧ RegisterResult s t rd q (s.pc + 4) ∧
        exec (.remu rd rs1 rs2) s = .next u ∧ RegisterResult s u rd m (s.pc + 4) ∧
        (b = 0 → q = 0xFFFFFFFF#32 ∧ m.toNat = a) ∧
        (b ≠ 0 → q.toNat = a / b ∧ m.toNat = a % b ∧ a = b * q.toNat + m.toNat)

/-! ### Reset (70_reset_and_hazards.md, 10_state.md) -/

/-- 10_state.md R54, R61, 70_reset_and_hazards.md R390, R391: after reset every control register reads its listed
value, x0 is 0, the hidden state is empty, nothing is takeable, whatever the configuration, the values in x1 to x31,
the program image and the environment are. `State.reset` is one such state; which one is the model's choice (logs 1 to
4). The reset pc is the spec's parameter (D5), x1 to x31 its draw (D6). That `misa` reads 0x40001100 with RVE or
without M too is its decision D35, unsafe for a core that differs (log 27). -/
def Obligations.ResetValues : Prop :=
  (∀ (c : Config) (x : Vector Word 32) (image : Memory) (inputs : List Input) (s : State),
    s = State.launch c x image inputs →
    (∀ (a : CsrAddr) (v : Word), (a, v) ∈ [(0x300#12, 0x00000000#32), (0x301#12, 0x40001100#32), (0x304#12, 0x00000000#32),
      (0x305#12, 0x00000001#32), (0x340#12, 0x00000000#32), (0x341#12, 0x00000000#32), (0x342#12, 0x00000000#32),
      (0x343#12, 0x00000000#32), (0x344#12, 0x00000000#32), (0xB02#12, 0x00000000#32), (0xB03#12, 0x00000000#32),
      (0xB04#12, 0xFFFFFFFF#32), (0xB82#12, 0x00000000#32), (0xB83#12, 0x00000000#32), (0xB84#12, 0xFFFFFFFF#32),
      (0xB88#12, 0x00000000#32), (0xF11#12, 0x00114514#32), (0xF12#12, 0x00000001#32), (0xF13#12, c.mimpid),
      (0xF14#12, 0x00000000#32)] → s.csrRead a = v) ∧
    s.readReg 0#5 = 0#32 ∧ (∀ r, r ≠ 0#5 → s.readReg r = x[r.toNat]) ∧ s.pc = c.resetPc ∧ s.mem = image ∧
    s.storedCode = [] ∧ s.csrs.msipPending = false ∧ s.extPending = none ∧ s.extInService = none ∧ s.trapDepth = 0 ∧
    s.asleep = false ∧ s.simOutput = [] ∧ s.simEnded = false ∧ s.softResetReq = false ∧ s.takeable = []) ∧
  ∃ c x image inputs, c.wf = true ∧ State.reset = State.launch c x image inputs

/-! ### The whole machine -/

/-- The invariant holds after reset, under any configuration and any launch with a canonical image. The form of the
memory is the model's (log 5). -/
def Obligations.InvariantAtReset : Prop :=
  State.reset.Inv ∧
  ∀ (c : Config) (x : Vector Word 32) (image : Memory) (inputs : List Input), Memory.wf image →
    (State.launch c x image inputs).Inv

/-- Every step keeps the invariant, from every state that has it. The form of the memory is the model's (log 5), the
range of ids the spec's decision D32 (log 22). -/
def Obligations.StepKeepsInvariant : Prop :=
  ∀ s t : State, s.Inv → step s = .next t → t.Inv

/-- 20_memory.md R83, 60_exceptions.md R340: a byte of memory changes only in a step that runs a store, and then only
inside the bytes it stores. One memory for data and fetch is the spec's decision D28 (log 7). -/
def Obligations.OnlyStoresChangeMemory : Prop :=
  ∀ (s t : State) (a : Nat), step s = .next t → t.byteAt a ≠ s.byteAt a →
    ∃ w i rs2 rs1 imm n, s.atInstruction ∧ s.afterEnvironment.fetches w ∧
      decode s.config.rve s.config.hasM w = .ok i ∧
      (i, n) ∈ [(Instr.sb rs2 rs1 imm, 1), (Instr.sh rs2 rs1 imm, 2), (Instr.sw rs2 rs1 imm, 4)] ∧
      (s.effectiveAddress rs1 imm).toNat ≤ a ∧ a < (s.effectiveAddress rs1 imm).toNat + n

/-- 60_exceptions.md R331, R340, 47_trap_ret_wfi.md R265: the global interrupt enable goes from 0 to 1 only by an
`mret` or by a CSR form that writes `mstatus`. A consequence of every rule that writes `mstatus`. -/
def Obligations.InterruptsEnabledOnlyBy : Prop :=
  ∀ s t : State, step s = .next t → s.csrs.mie = false → t.csrs.mie = true →
    ∃ w i, s.atInstruction ∧ s.afterEnvironment.fetches w ∧ decode s.config.rve s.config.hasM w = .ok i ∧
      (i = .mret ∨ writesCsr i (fun a => a == 0x300#12) = true)

/-- 00_scope.md R6, 10_state.md R59, 60_exceptions.md R373 to R375: a step changes no parameter and uses up one input;
`sim_output` only grows, by at most one byte and only in a step that runs a CSR form writing `mprints`; `sim_ended` and
`soft_reset_req` become 1 only in a step that runs a CSR form writing `mends` or `mcctr`, and no instruction takes them
back; the record of the PLIC's signals only grows, by at most two; the index of the free values grows strictly. The
inputs and the index are the model's own fields (logs 1, 8, 23), the run's end after these requests is log 18. -/
def Obligations.OutputsOnlyGrow : Prop :=
  (∀ s t : State, step s = .next t →
    t.config = s.config ∧ t.inputs = s.inputs.tail ∧ s.freeIndex < t.freeIndex ∧
    (∃ l, t.simOutput = s.simOutput ++ l ∧ l.length ≤ 1) ∧
    (∃ l, t.plicSignals = s.plicSignals ++ l ∧ l.length ≤ 2) ∧
    (t.simOutput ≠ s.simOutput → ∃ i, s.aboutToRun i ∧ writesCsr i (fun a => a == 0x346#12) = true) ∧
    (t.simEnded = true → ∃ i, s.aboutToRun i ∧ writesCsr i (fun a => a == 0x347#12) = true) ∧
    (t.softResetReq = true → ∃ i, s.aboutToRun i ∧ writesCsr i (fun a => a == 0xB88#12) = true)) ∧
  (∀ (s t : State) (i : Instr), exec i s = .next t →
    (s.simEnded = true → t.simEnded = true) ∧ (s.softResetReq = true → t.softResetReq = true))

/-- 20_memory.md R100: no step takes an address out of the record of stores to the program memory; so, however long the
run, a word of which a byte was stored is never fetched. The spec's own decision D26 (logs 7, 20). -/
def Obligations.StoredCodeNeverFetchedAgain : Prop :=
  (∀ (s t : State) (a : Nat), step s = .next t → a ∈ s.storedCode → a ∈ t.storedCode) ∧
  (∀ (s t : State) (a : Nat) (p : Word), ReachableFrom s t → a ∈ s.storedCode → p.toNat % 4 = 0 →
    Config.inProgramMemory s.config p.toNat 4 = true → p.toNat ≤ a → a < p.toNat + 4 →
    (t.setPc p).fetch = .error .fetchOfModifiedCode)

/-- 60_exceptions.md R328, over every step: the software interrupt's request is made only by a step that runs `csrrw` or
`csrrwi` writing 1 to `msip`, and withdrawn only by one that writes 0 there: by no other instruction, no trap entry, no
return, no move of the environment. The spec's own decision D16; that a set or clear form cannot do it is D34 (log 7). -/
def Obligations.MsipPendingChangedOnlyBy : Prop :=
  ∀ s t : State, step s = .next t → t.csrs.msipPending ≠ s.csrs.msipPending →
    ∃ i, s.aboutToRun i ∧
      ((∃ rd rs1, i = .csrrw rd 0x345#12 rs1 ∧ (s.readReg rs1).toNat = if t.csrs.msipPending then 1 else 0) ∨
        (∃ rd uimm, i = .csrrwi rd 0x345#12 uimm ∧ uimm.toNat = if t.csrs.msipPending then 1 else 0))
end

