-- ==== Sys2Proof/Laws/Decode.lean ====
section
/-! SUPPORT. Cutting a word into fields and joining fields into a word undo each other, and so do the immediates
(30_encoding.md R121 to R126, R128). -/

namespace Sys2Proof

/-- No bit of a word is lost or moved by cutting and joining. -/
@[simp] theorem fieldsOf_wordOf (f : Fields) : fieldsOf (wordOf f) = f := by
  obtain ⟨a, b, c, d, e, g⟩ := f
  simp only [fieldsOf, wordOf, Fields.mk.injEq]
  refine ⟨?_, ?_, ?_, ?_, ?_, ?_⟩ <;>
  · ext i hi
    simp only [BitVec.getElem_extractLsb', BitVec.getLsbD_append]
    grind

@[simp] theorem wordOf_fieldsOf (w : Word) : wordOf (fieldsOf w) = w := by
  simp only [fieldsOf, wordOf]
  ext i hi
  simp only [BitVec.getElem_append, BitVec.getElem_extractLsb']
  grind

theorem fieldsOf_inj {v w : Word} (h : fieldsOf v = fieldsOf w) : v = w := by
  rw [← wordOf_fieldsOf v, h, wordOf_fieldsOf]

/-! ### The immediates: what the encoder splits, the decoder joins, and the other way round -/

/-- The I and S immediates. -/
@[simp] theorem imm12_join (imm : BitVec 12) : imm.extractLsb' 5 7 ++ imm.extractLsb' 0 5 = imm := by
  ext i hi
  simp only [BitVec.getElem_append, BitVec.getElem_extractLsb']
  grind

@[simp] theorem imm12_high (a : BitVec 7) (b : BitVec 5) : (a ++ b).extractLsb' 5 7 = a := by
  ext i hi
  simp only [BitVec.getElem_extractLsb', BitVec.getLsbD_append]
  grind

@[simp] theorem imm12_low (a : BitVec 7) (b : BitVec 5) : (a ++ b).extractLsb' 0 5 = b := by
  ext i hi
  simp only [BitVec.getElem_extractLsb', BitVec.getLsbD_append]
  grind

/-- The B offset: an even offset is joined as it was split. -/
theorem immB_join (o : BitVec 13) (h : o.getLsbD 0 = false) (rs1 rs2 : BitVec 5) (funct3 : BitVec 3)
    (opcode : BitVec 7) :
    Fields.immB ⟨o.extractLsb' 12 1 ++ o.extractLsb' 5 6, rs2, rs1, funct3,
      o.extractLsb' 1 4 ++ o.extractLsb' 11 1, opcode⟩ = o := by
  simp only [Fields.immB]
  ext i hi
  simp only [BitVec.getElem_append, BitVec.getElem_extractLsb', BitVec.getLsbD_append, BitVec.getLsbD_extractLsb']
  grind

theorem immB_high (f : Fields) : f.immB.extractLsb' 12 1 ++ f.immB.extractLsb' 5 6 = f.funct7 := by
  unfold Fields.immB
  ext i hi
  simp only [BitVec.getElem_append, BitVec.getElem_extractLsb', BitVec.getLsbD_append, BitVec.getLsbD_extractLsb']
  grind

theorem immB_low (f : Fields) : f.immB.extractLsb' 1 4 ++ f.immB.extractLsb' 11 1 = f.rd := by
  unfold Fields.immB
  ext i hi
  simp only [BitVec.getElem_append, BitVec.getElem_extractLsb', BitVec.getLsbD_append, BitVec.getLsbD_extractLsb']
  grind

@[simp] theorem immB_even (f : Fields) : f.immB.getLsbD 0 = false := by
  unfold Fields.immB
  exact (BitVec.getLsbD_append ..).trans rfl

/-- The U field. -/
theorem immU_join (u : BitVec 20) (rd : BitVec 5) (opcode : BitVec 7) :
    Fields.immU ⟨u.extractLsb' 13 7, u.extractLsb' 8 5, u.extractLsb' 3 5, u.extractLsb' 0 3, rd, opcode⟩ = u := by
  simp only [Fields.immU]
  ext i hi
  simp only [BitVec.getElem_append, BitVec.getElem_extractLsb']
  grind

theorem immU_split (f : Fields) : f.immU.extractLsb' 13 7 = f.funct7 ∧ f.immU.extractLsb' 8 5 = f.rs2 ∧
    f.immU.extractLsb' 3 5 = f.rs1 ∧ f.immU.extractLsb' 0 3 = f.funct3 := by
  unfold Fields.immU
  refine ⟨?_, ?_, ?_, ?_⟩ <;>
  · ext i hi
    simp only [BitVec.getElem_extractLsb', BitVec.getLsbD_append]
    grind

/-- The J offset: an even offset is joined as it was split. -/
theorem immJ_join (o : BitVec 21) (h : o.getLsbD 0 = false) (f : Fields)
    (hu : f.immU = o.extractLsb' 20 1 ++ o.extractLsb' 1 10 ++ o.extractLsb' 11 1 ++ o.extractLsb' 12 8) :
    f.immJ = o := by
  simp only [Fields.immJ, hu]
  ext i hi
  simp only [BitVec.getElem_append, BitVec.getElem_extractLsb', BitVec.getLsbD_append, BitVec.getLsbD_extractLsb']
  grind

theorem immJ_split (f : Fields) :
    f.immJ.extractLsb' 20 1 ++ f.immJ.extractLsb' 1 10 ++ f.immJ.extractLsb' 11 1 ++ f.immJ.extractLsb' 12 8 =
      f.immU := by
  unfold Fields.immJ
  ext i hi
  simp only [BitVec.getElem_append, BitVec.getElem_extractLsb', BitVec.getLsbD_append]
  grind

@[simp] theorem immJ_even (f : Fields) : f.immJ.getLsbD 0 = false := by
  unfold Fields.immJ
  exact (BitVec.getLsbD_append ..).trans rfl

/-- The three fields of `fence`. -/
@[simp] theorem fence_join (x : BitVec 12) :
    x.extractLsb' 8 4 ++ x.extractLsb' 4 4 ++ x.extractLsb' 0 4 = x := by
  ext i hi
  simp only [BitVec.getElem_append, BitVec.getElem_extractLsb']
  grind

theorem fence_split (a b c : BitVec 4) : (a ++ b ++ c).extractLsb' 8 4 = a ∧ (a ++ b ++ c).extractLsb' 4 4 = b ∧
    (a ++ b ++ c).extractLsb' 0 4 = c := by
  refine ⟨?_, ?_, ?_⟩ <;>
  · ext i hi
    simp only [BitVec.getElem_extractLsb', BitVec.getLsbD_append]
    grind

/-! ### What decoding can answer -/

/-- A word decodes to an instruction exactly when its fields select the row and the registers are allowed. -/
theorem decode_ok {rve hasM : Bool} {w : Word} {i : Instr} :
    decode rve hasM w = .ok i ↔ decodeFields hasM (fieldsOf w) = some i ∧ i.regsOk rve = true := by
  unfold decode
  cases h : decodeFields hasM (fieldsOf w) with
  | none => simp
  | some j =>
    simp only [Option.some.injEq]
    split
    · rename_i hr
      simp only [Except.ok.injEq]
      exact ⟨fun e => ⟨e, e ▸ hr⟩, fun e => e.1⟩
    · rename_i hr
      simp only [reduceCtorEq, false_iff]
      rintro ⟨rfl, h⟩
      exact hr h

/-- A word is unlisted exactly when its fields select no row. -/
theorem decode_unlisted {rve hasM : Bool} {w : Word} :
    decode rve hasM w = .error .unlistedEncoding ↔ decodeFields hasM (fieldsOf w) = none := by
  unfold decode
  cases h : decodeFields hasM (fieldsOf w) with
  | none => simp
  | some j => by_cases hr : j.regsOk rve <;> simp [hr]

end Sys2Proof
end

