-- ==== Sys2Proof/Laws/State.lean ====
section
/-! SUPPORT. One lemma per field per state update, so that no proof unfolds a record update. -/

namespace Sys2Proof.Machine

variable (s : State)

/-! ### setPc -/

@[simp] theorem State.setPc_config (t : Word) : (s.setPc t).config = s.config := rfl
@[simp] theorem State.setPc_regs (t : Word) : (s.setPc t).regs = s.regs := rfl
@[simp] theorem State.setPc_pc (t : Word) : (s.setPc t).pc = t := rfl
@[simp] theorem State.setPc_csrs (t : Word) : (s.setPc t).csrs = s.csrs := rfl
@[simp] theorem State.setPc_mem (t : Word) : (s.setPc t).mem = s.mem := rfl
@[simp] theorem State.setPc_storedCode (t : Word) : (s.setPc t).storedCode = s.storedCode := rfl
@[simp] theorem State.setPc_extPending (t : Word) : (s.setPc t).extPending = s.extPending := rfl
@[simp] theorem State.setPc_extInService (t : Word) : (s.setPc t).extInService = s.extInService := rfl
@[simp] theorem State.setPc_extRequest (t : Word) : (s.setPc t).extRequest = s.extRequest := rfl
@[simp] theorem State.setPc_plicSignals (t : Word) : (s.setPc t).plicSignals = s.plicSignals := rfl
@[simp] theorem State.setPc_trapDepth (t : Word) : (s.setPc t).trapDepth = s.trapDepth := rfl
@[simp] theorem State.setPc_asleep (t : Word) : (s.setPc t).asleep = s.asleep := rfl
@[simp] theorem State.setPc_simOutput (t : Word) : (s.setPc t).simOutput = s.simOutput := rfl
@[simp] theorem State.setPc_simEnded (t : Word) : (s.setPc t).simEnded = s.simEnded := rfl
@[simp] theorem State.setPc_softResetReq (t : Word) : (s.setPc t).softResetReq = s.softResetReq := rfl
@[simp] theorem State.setPc_inputs (t : Word) : (s.setPc t).inputs = s.inputs := rfl
@[simp] theorem State.setPc_freeIndex (t : Word) : (s.setPc t).freeIndex = s.freeIndex := rfl

/-! ### advance -/

@[simp] theorem State.advance_config : (s.advance).config = s.config := rfl
@[simp] theorem State.advance_regs : (s.advance).regs = s.regs := rfl
@[simp] theorem State.advance_pc : (s.advance).pc = s.pc + 4 := rfl
@[simp] theorem State.advance_csrs : (s.advance).csrs = s.csrs := rfl
@[simp] theorem State.advance_mem : (s.advance).mem = s.mem := rfl
@[simp] theorem State.advance_storedCode : (s.advance).storedCode = s.storedCode := rfl
@[simp] theorem State.advance_extPending : (s.advance).extPending = s.extPending := rfl
@[simp] theorem State.advance_extInService : (s.advance).extInService = s.extInService := rfl
@[simp] theorem State.advance_extRequest : (s.advance).extRequest = s.extRequest := rfl
@[simp] theorem State.advance_plicSignals : (s.advance).plicSignals = s.plicSignals := rfl
@[simp] theorem State.advance_trapDepth : (s.advance).trapDepth = s.trapDepth := rfl
@[simp] theorem State.advance_asleep : (s.advance).asleep = s.asleep := rfl
@[simp] theorem State.advance_simOutput : (s.advance).simOutput = s.simOutput := rfl
@[simp] theorem State.advance_simEnded : (s.advance).simEnded = s.simEnded := rfl
@[simp] theorem State.advance_softResetReq : (s.advance).softResetReq = s.softResetReq := rfl
@[simp] theorem State.advance_inputs : (s.advance).inputs = s.inputs := rfl
@[simp] theorem State.advance_freeIndex : (s.advance).freeIndex = s.freeIndex := rfl

/-! ### drawn -/

@[simp] theorem State.drawn_config : (s.drawn).config = s.config := rfl
@[simp] theorem State.drawn_regs : (s.drawn).regs = s.regs := rfl
@[simp] theorem State.drawn_pc : (s.drawn).pc = s.pc := rfl
@[simp] theorem State.drawn_csrs : (s.drawn).csrs = s.csrs := rfl
@[simp] theorem State.drawn_mem : (s.drawn).mem = s.mem := rfl
@[simp] theorem State.drawn_storedCode : (s.drawn).storedCode = s.storedCode := rfl
@[simp] theorem State.drawn_extPending : (s.drawn).extPending = s.extPending := rfl
@[simp] theorem State.drawn_extInService : (s.drawn).extInService = s.extInService := rfl
@[simp] theorem State.drawn_extRequest : (s.drawn).extRequest = s.extRequest := rfl
@[simp] theorem State.drawn_plicSignals : (s.drawn).plicSignals = s.plicSignals := rfl
@[simp] theorem State.drawn_trapDepth : (s.drawn).trapDepth = s.trapDepth := rfl
@[simp] theorem State.drawn_asleep : (s.drawn).asleep = s.asleep := rfl
@[simp] theorem State.drawn_simOutput : (s.drawn).simOutput = s.simOutput := rfl
@[simp] theorem State.drawn_simEnded : (s.drawn).simEnded = s.simEnded := rfl
@[simp] theorem State.drawn_softResetReq : (s.drawn).softResetReq = s.softResetReq := rfl
@[simp] theorem State.drawn_inputs : (s.drawn).inputs = s.inputs := rfl
@[simp] theorem State.drawn_freeIndex : (s.drawn).freeIndex = s.freeIndex + 1 := rfl

/-! ### writeReg -/

@[simp] theorem State.writeReg_config (r : RegNum) (v : Word) : (s.writeReg r v).config = s.config := by
  unfold State.writeReg; split <;> rfl
@[simp] theorem State.writeReg_pc (r : RegNum) (v : Word) : (s.writeReg r v).pc = s.pc := by
  unfold State.writeReg; split <;> rfl
@[simp] theorem State.writeReg_csrs (r : RegNum) (v : Word) : (s.writeReg r v).csrs = s.csrs := by
  unfold State.writeReg; split <;> rfl
@[simp] theorem State.writeReg_mem (r : RegNum) (v : Word) : (s.writeReg r v).mem = s.mem := by
  unfold State.writeReg; split <;> rfl
@[simp] theorem State.writeReg_storedCode (r : RegNum) (v : Word) : (s.writeReg r v).storedCode = s.storedCode := by
  unfold State.writeReg; split <;> rfl
@[simp] theorem State.writeReg_extPending (r : RegNum) (v : Word) : (s.writeReg r v).extPending = s.extPending := by
  unfold State.writeReg; split <;> rfl
@[simp] theorem State.writeReg_extInService (r : RegNum) (v : Word) : (s.writeReg r v).extInService = s.extInService := by
  unfold State.writeReg; split <;> rfl
@[simp] theorem State.writeReg_extRequest (r : RegNum) (v : Word) : (s.writeReg r v).extRequest = s.extRequest := by
  unfold State.writeReg; split <;> rfl
@[simp] theorem State.writeReg_plicSignals (r : RegNum) (v : Word) : (s.writeReg r v).plicSignals = s.plicSignals := by
  unfold State.writeReg; split <;> rfl
@[simp] theorem State.writeReg_trapDepth (r : RegNum) (v : Word) : (s.writeReg r v).trapDepth = s.trapDepth := by
  unfold State.writeReg; split <;> rfl
@[simp] theorem State.writeReg_asleep (r : RegNum) (v : Word) : (s.writeReg r v).asleep = s.asleep := by
  unfold State.writeReg; split <;> rfl
@[simp] theorem State.writeReg_simOutput (r : RegNum) (v : Word) : (s.writeReg r v).simOutput = s.simOutput := by
  unfold State.writeReg; split <;> rfl
@[simp] theorem State.writeReg_simEnded (r : RegNum) (v : Word) : (s.writeReg r v).simEnded = s.simEnded := by
  unfold State.writeReg; split <;> rfl
@[simp] theorem State.writeReg_softResetReq (r : RegNum) (v : Word) : (s.writeReg r v).softResetReq = s.softResetReq := by
  unfold State.writeReg; split <;> rfl
@[simp] theorem State.writeReg_inputs (r : RegNum) (v : Word) : (s.writeReg r v).inputs = s.inputs := by
  unfold State.writeReg; split <;> rfl
@[simp] theorem State.writeReg_freeIndex (r : RegNum) (v : Word) : (s.writeReg r v).freeIndex = s.freeIndex := by
  unfold State.writeReg; split <;> rfl

/-! ### writeBytes -/

@[simp] theorem State.writeBytes_config (k : RegionKind) (a : Nat) (v : Word) (n : Nat) : (s.writeBytes k a v n).config = s.config := rfl
@[simp] theorem State.writeBytes_regs (k : RegionKind) (a : Nat) (v : Word) (n : Nat) : (s.writeBytes k a v n).regs = s.regs := rfl
@[simp] theorem State.writeBytes_pc (k : RegionKind) (a : Nat) (v : Word) (n : Nat) : (s.writeBytes k a v n).pc = s.pc := rfl
@[simp] theorem State.writeBytes_csrs (k : RegionKind) (a : Nat) (v : Word) (n : Nat) : (s.writeBytes k a v n).csrs = s.csrs := rfl
@[simp] theorem State.writeBytes_mem (k : RegionKind) (a : Nat) (v : Word) (n : Nat) : (s.writeBytes k a v n).mem = memWriteBytes s.mem a v n := rfl
@[simp] theorem State.writeBytes_storedCode (k : RegionKind) (a : Nat) (v : Word) (n : Nat) : (s.writeBytes k a v n).storedCode = if k = .programMemory then addrInsertRange s.storedCode a n else s.storedCode := rfl
@[simp] theorem State.writeBytes_extPending (k : RegionKind) (a : Nat) (v : Word) (n : Nat) : (s.writeBytes k a v n).extPending = s.extPending := rfl
@[simp] theorem State.writeBytes_extInService (k : RegionKind) (a : Nat) (v : Word) (n : Nat) : (s.writeBytes k a v n).extInService = s.extInService := rfl
@[simp] theorem State.writeBytes_extRequest (k : RegionKind) (a : Nat) (v : Word) (n : Nat) : (s.writeBytes k a v n).extRequest = s.extRequest := rfl
@[simp] theorem State.writeBytes_plicSignals (k : RegionKind) (a : Nat) (v : Word) (n : Nat) : (s.writeBytes k a v n).plicSignals = s.plicSignals := rfl
@[simp] theorem State.writeBytes_trapDepth (k : RegionKind) (a : Nat) (v : Word) (n : Nat) : (s.writeBytes k a v n).trapDepth = s.trapDepth := rfl
@[simp] theorem State.writeBytes_asleep (k : RegionKind) (a : Nat) (v : Word) (n : Nat) : (s.writeBytes k a v n).asleep = s.asleep := rfl
@[simp] theorem State.writeBytes_simOutput (k : RegionKind) (a : Nat) (v : Word) (n : Nat) : (s.writeBytes k a v n).simOutput = s.simOutput := rfl
@[simp] theorem State.writeBytes_simEnded (k : RegionKind) (a : Nat) (v : Word) (n : Nat) : (s.writeBytes k a v n).simEnded = s.simEnded := rfl
@[simp] theorem State.writeBytes_softResetReq (k : RegionKind) (a : Nat) (v : Word) (n : Nat) : (s.writeBytes k a v n).softResetReq = s.softResetReq := rfl
@[simp] theorem State.writeBytes_inputs (k : RegionKind) (a : Nat) (v : Word) (n : Nat) : (s.writeBytes k a v n).inputs = s.inputs := rfl
@[simp] theorem State.writeBytes_freeIndex (k : RegionKind) (a : Nat) (v : Word) (n : Nat) : (s.writeBytes k a v n).freeIndex = s.freeIndex := rfl

/-! ### takeTrap -/

@[simp] theorem State.takeTrap_config (c : TrapCause) : (s.takeTrap c).config = s.config := rfl
@[simp] theorem State.takeTrap_regs (c : TrapCause) : (s.takeTrap c).regs = s.regs := rfl
@[simp] theorem State.takeTrap_pc (c : TrapCause) : (s.takeTrap c).pc = s.vectorBase + BitVec.ofNat 32 (4 * trapCode c) := rfl
@[simp] theorem State.takeTrap_mem (c : TrapCause) : (s.takeTrap c).mem = s.mem := rfl
@[simp] theorem State.takeTrap_storedCode (c : TrapCause) : (s.takeTrap c).storedCode = s.storedCode := rfl
@[simp] theorem State.takeTrap_extRequest (c : TrapCause) : (s.takeTrap c).extRequest = s.extRequest := rfl
@[simp] theorem State.takeTrap_plicSignals (c : TrapCause) : (s.takeTrap c).plicSignals = s.plicSignals := rfl
@[simp] theorem State.takeTrap_trapDepth (c : TrapCause) : (s.takeTrap c).trapDepth = s.trapDepth + 1 := rfl
@[simp] theorem State.takeTrap_asleep (c : TrapCause) : (s.takeTrap c).asleep = false := rfl
@[simp] theorem State.takeTrap_simOutput (c : TrapCause) : (s.takeTrap c).simOutput = s.simOutput := rfl
@[simp] theorem State.takeTrap_simEnded (c : TrapCause) : (s.takeTrap c).simEnded = s.simEnded := rfl
@[simp] theorem State.takeTrap_softResetReq (c : TrapCause) : (s.takeTrap c).softResetReq = s.softResetReq := rfl
@[simp] theorem State.takeTrap_inputs (c : TrapCause) : (s.takeTrap c).inputs = s.inputs := rfl

/-! ### trapReturn -/

@[simp] theorem State.trapReturn_config : (s.trapReturn).config = s.config := rfl
@[simp] theorem State.trapReturn_regs : (s.trapReturn).regs = s.regs := rfl
@[simp] theorem State.trapReturn_pc : (s.trapReturn).pc = s.csrs.mepc := rfl
@[simp] theorem State.trapReturn_csrs : (s.trapReturn).csrs = { s.csrs with mie := s.csrs.mpie, mpie := false } := rfl
@[simp] theorem State.trapReturn_mem : (s.trapReturn).mem = s.mem := rfl
@[simp] theorem State.trapReturn_storedCode : (s.trapReturn).storedCode = s.storedCode := rfl
@[simp] theorem State.trapReturn_extPending : (s.trapReturn).extPending = s.extPending := rfl
@[simp] theorem State.trapReturn_extInService : (s.trapReturn).extInService = none := rfl
@[simp] theorem State.trapReturn_extRequest : (s.trapReturn).extRequest = s.extRequest := rfl
@[simp] theorem State.trapReturn_trapDepth : (s.trapReturn).trapDepth = s.trapDepth - 1 := rfl
@[simp] theorem State.trapReturn_asleep : (s.trapReturn).asleep = s.asleep := rfl
@[simp] theorem State.trapReturn_simOutput : (s.trapReturn).simOutput = s.simOutput := rfl
@[simp] theorem State.trapReturn_simEnded : (s.trapReturn).simEnded = s.simEnded := rfl
@[simp] theorem State.trapReturn_softResetReq : (s.trapReturn).softResetReq = s.softResetReq := rfl
@[simp] theorem State.trapReturn_inputs : (s.trapReturn).inputs = s.inputs := rfl
@[simp] theorem State.trapReturn_freeIndex : (s.trapReturn).freeIndex = s.freeIndex := rfl

/-! ### tick -/

@[simp] theorem State.tick_config : (s.tick).config = s.config := by
  unfold State.tick; split <;> rfl
@[simp] theorem State.tick_regs : (s.tick).regs = s.regs := by
  unfold State.tick; split <;> rfl
@[simp] theorem State.tick_pc : (s.tick).pc = s.pc := by
  unfold State.tick; split <;> rfl
@[simp] theorem State.tick_mem : (s.tick).mem = s.mem := by
  unfold State.tick; split <;> rfl
@[simp] theorem State.tick_storedCode : (s.tick).storedCode = s.storedCode := by
  unfold State.tick; split <;> rfl
@[simp] theorem State.tick_extPending : (s.tick).extPending = s.extPending := by
  unfold State.tick; split <;> rfl
@[simp] theorem State.tick_extInService : (s.tick).extInService = s.extInService := by
  unfold State.tick; split <;> rfl
@[simp] theorem State.tick_extRequest : (s.tick).extRequest = s.extRequest := by
  unfold State.tick; split <;> rfl
@[simp] theorem State.tick_plicSignals : (s.tick).plicSignals = s.plicSignals := by
  unfold State.tick; split <;> rfl
@[simp] theorem State.tick_trapDepth : (s.tick).trapDepth = s.trapDepth := by
  unfold State.tick; split <;> rfl
@[simp] theorem State.tick_asleep : (s.tick).asleep = s.asleep := by
  unfold State.tick; split <;> rfl
@[simp] theorem State.tick_simOutput : (s.tick).simOutput = s.simOutput := by
  unfold State.tick; split <;> rfl
@[simp] theorem State.tick_simEnded : (s.tick).simEnded = s.simEnded := by
  unfold State.tick; split <;> rfl
@[simp] theorem State.tick_softResetReq : (s.tick).softResetReq = s.softResetReq := by
  unfold State.tick; split <;> rfl
@[simp] theorem State.tick_inputs : (s.tick).inputs = s.inputs := by
  unfold State.tick; split <;> rfl
@[simp] theorem State.tick_freeIndex : (s.tick).freeIndex = s.freeIndex := by
  unfold State.tick; split <;> rfl

/-! ### plicRaises -/

@[simp] theorem State.plicRaises_config (i : Option SourceId) : (s.plicRaises i).config = s.config := by
  unfold State.plicRaises; split <;> rfl
@[simp] theorem State.plicRaises_regs (i : Option SourceId) : (s.plicRaises i).regs = s.regs := by
  unfold State.plicRaises; split <;> rfl
@[simp] theorem State.plicRaises_pc (i : Option SourceId) : (s.plicRaises i).pc = s.pc := by
  unfold State.plicRaises; split <;> rfl
@[simp] theorem State.plicRaises_csrs (i : Option SourceId) : (s.plicRaises i).csrs = s.csrs := by
  unfold State.plicRaises; split <;> rfl
@[simp] theorem State.plicRaises_mem (i : Option SourceId) : (s.plicRaises i).mem = s.mem := by
  unfold State.plicRaises; split <;> rfl
@[simp] theorem State.plicRaises_storedCode (i : Option SourceId) : (s.plicRaises i).storedCode = s.storedCode := by
  unfold State.plicRaises; split <;> rfl
@[simp] theorem State.plicRaises_extPending (i : Option SourceId) : (s.plicRaises i).extPending = s.extPending := by
  unfold State.plicRaises; split <;> rfl
@[simp] theorem State.plicRaises_extInService (i : Option SourceId) : (s.plicRaises i).extInService = s.extInService := by
  unfold State.plicRaises; split <;> rfl
@[simp] theorem State.plicRaises_plicSignals (i : Option SourceId) : (s.plicRaises i).plicSignals = s.plicSignals := by
  unfold State.plicRaises; split <;> rfl
@[simp] theorem State.plicRaises_trapDepth (i : Option SourceId) : (s.plicRaises i).trapDepth = s.trapDepth := by
  unfold State.plicRaises; split <;> rfl
@[simp] theorem State.plicRaises_asleep (i : Option SourceId) : (s.plicRaises i).asleep = s.asleep := by
  unfold State.plicRaises; split <;> rfl
@[simp] theorem State.plicRaises_simOutput (i : Option SourceId) : (s.plicRaises i).simOutput = s.simOutput := by
  unfold State.plicRaises; split <;> rfl
@[simp] theorem State.plicRaises_simEnded (i : Option SourceId) : (s.plicRaises i).simEnded = s.simEnded := by
  unfold State.plicRaises; split <;> rfl
@[simp] theorem State.plicRaises_softResetReq (i : Option SourceId) : (s.plicRaises i).softResetReq = s.softResetReq := by
  unfold State.plicRaises; split <;> rfl
@[simp] theorem State.plicRaises_inputs (i : Option SourceId) : (s.plicRaises i).inputs = s.inputs := by
  unfold State.plicRaises; split <;> rfl
@[simp] theorem State.plicRaises_freeIndex (i : Option SourceId) : (s.plicRaises i).freeIndex = s.freeIndex := by
  unfold State.plicRaises; split <;> rfl

/-! ### acceptRequest -/

@[simp] theorem State.acceptRequest_config : (s.acceptRequest).config = s.config := by
  unfold State.acceptRequest; split <;> rfl
@[simp] theorem State.acceptRequest_regs : (s.acceptRequest).regs = s.regs := by
  unfold State.acceptRequest; split <;> rfl
@[simp] theorem State.acceptRequest_pc : (s.acceptRequest).pc = s.pc := by
  unfold State.acceptRequest; split <;> rfl
@[simp] theorem State.acceptRequest_csrs : (s.acceptRequest).csrs = s.csrs := by
  unfold State.acceptRequest; split <;> rfl
@[simp] theorem State.acceptRequest_mem : (s.acceptRequest).mem = s.mem := by
  unfold State.acceptRequest; split <;> rfl
@[simp] theorem State.acceptRequest_storedCode : (s.acceptRequest).storedCode = s.storedCode := by
  unfold State.acceptRequest; split <;> rfl
@[simp] theorem State.acceptRequest_extInService : (s.acceptRequest).extInService = s.extInService := by
  unfold State.acceptRequest; split <;> rfl
@[simp] theorem State.acceptRequest_trapDepth : (s.acceptRequest).trapDepth = s.trapDepth := by
  unfold State.acceptRequest; split <;> rfl
@[simp] theorem State.acceptRequest_asleep : (s.acceptRequest).asleep = s.asleep := by
  unfold State.acceptRequest; split <;> rfl
@[simp] theorem State.acceptRequest_simOutput : (s.acceptRequest).simOutput = s.simOutput := by
  unfold State.acceptRequest; split <;> rfl
@[simp] theorem State.acceptRequest_simEnded : (s.acceptRequest).simEnded = s.simEnded := by
  unfold State.acceptRequest; split <;> rfl
@[simp] theorem State.acceptRequest_softResetReq : (s.acceptRequest).softResetReq = s.softResetReq := by
  unfold State.acceptRequest; split <;> rfl
@[simp] theorem State.acceptRequest_inputs : (s.acceptRequest).inputs = s.inputs := by
  unfold State.acceptRequest; split <;> rfl
@[simp] theorem State.acceptRequest_freeIndex : (s.acceptRequest).freeIndex = s.freeIndex := by
  unfold State.acceptRequest; split <;> rfl

/-! ### retire -/

@[simp] theorem State.retire_config (i : Instr) (b : Bool) : (s.retire i b).config = s.config := by
  unfold State.retire; split <;> rfl
@[simp] theorem State.retire_regs (i : Instr) (b : Bool) : (s.retire i b).regs = s.regs := by
  unfold State.retire; split <;> rfl
@[simp] theorem State.retire_pc (i : Instr) (b : Bool) : (s.retire i b).pc = s.pc := by
  unfold State.retire; split <;> rfl
@[simp] theorem State.retire_mem (i : Instr) (b : Bool) : (s.retire i b).mem = s.mem := by
  unfold State.retire; split <;> rfl
@[simp] theorem State.retire_storedCode (i : Instr) (b : Bool) : (s.retire i b).storedCode = s.storedCode := by
  unfold State.retire; split <;> rfl
@[simp] theorem State.retire_extPending (i : Instr) (b : Bool) : (s.retire i b).extPending = s.extPending := by
  unfold State.retire; split <;> rfl
@[simp] theorem State.retire_extInService (i : Instr) (b : Bool) : (s.retire i b).extInService = s.extInService := by
  unfold State.retire; split <;> rfl
@[simp] theorem State.retire_extRequest (i : Instr) (b : Bool) : (s.retire i b).extRequest = s.extRequest := by
  unfold State.retire; split <;> rfl
@[simp] theorem State.retire_plicSignals (i : Instr) (b : Bool) : (s.retire i b).plicSignals = s.plicSignals := by
  unfold State.retire; split <;> rfl
@[simp] theorem State.retire_trapDepth (i : Instr) (b : Bool) : (s.retire i b).trapDepth = s.trapDepth := by
  unfold State.retire; split <;> rfl
@[simp] theorem State.retire_asleep (i : Instr) (b : Bool) : (s.retire i b).asleep = s.asleep := by
  unfold State.retire; split <;> rfl
@[simp] theorem State.retire_simOutput (i : Instr) (b : Bool) : (s.retire i b).simOutput = s.simOutput := by
  unfold State.retire; split <;> rfl
@[simp] theorem State.retire_simEnded (i : Instr) (b : Bool) : (s.retire i b).simEnded = s.simEnded := by
  unfold State.retire; split <;> rfl
@[simp] theorem State.retire_softResetReq (i : Instr) (b : Bool) : (s.retire i b).softResetReq = s.softResetReq := by
  unfold State.retire; split <;> rfl
@[simp] theorem State.retire_inputs (i : Instr) (b : Bool) : (s.retire i b).inputs = s.inputs := by
  unfold State.retire; split <;> rfl
@[simp] theorem State.retire_freeIndex (i : Instr) (b : Bool) : (s.retire i b).freeIndex = s.freeIndex := by
  unfold State.retire; split <;> rfl

/-! ### environment and afterEnvironment -/

@[simp] theorem State.environment_config : s.environment.config = s.config := by
  simp [State.environment]
@[simp] theorem State.environment_regs : s.environment.regs = s.regs := by
  simp [State.environment]
@[simp] theorem State.environment_pc : s.environment.pc = s.pc := by
  simp [State.environment]
@[simp] theorem State.environment_csrs : s.environment.csrs = s.tick.csrs := by
  simp [State.environment]
@[simp] theorem State.environment_mem : s.environment.mem = s.mem := by
  simp [State.environment]
@[simp] theorem State.environment_storedCode : s.environment.storedCode = s.storedCode := by
  simp [State.environment]
@[simp] theorem State.environment_extPending : s.environment.extPending = s.extPending := by
  simp [State.environment]
@[simp] theorem State.environment_extInService : s.environment.extInService = s.extInService := by
  simp [State.environment]
@[simp] theorem State.environment_plicSignals : s.environment.plicSignals = s.plicSignals := by
  simp [State.environment]
@[simp] theorem State.environment_trapDepth : s.environment.trapDepth = s.trapDepth := by
  simp [State.environment]
@[simp] theorem State.environment_asleep : s.environment.asleep = s.asleep := by
  simp [State.environment]
@[simp] theorem State.environment_simOutput : s.environment.simOutput = s.simOutput := by
  simp [State.environment]
@[simp] theorem State.environment_simEnded : s.environment.simEnded = s.simEnded := by
  simp [State.environment]
@[simp] theorem State.environment_softResetReq : s.environment.softResetReq = s.softResetReq := by
  simp [State.environment]
@[simp] theorem State.environment_inputs : s.environment.inputs = s.inputs.tail := by
  simp [State.environment]
@[simp] theorem State.environment_freeIndex : s.environment.freeIndex = s.freeIndex + 1 := by
  simp [State.environment]
@[simp] theorem State.afterEnvironment_config : s.afterEnvironment.config = s.config := by
  unfold State.afterEnvironment; split <;> simp
@[simp] theorem State.afterEnvironment_regs : s.afterEnvironment.regs = s.regs := by
  unfold State.afterEnvironment; split <;> simp
@[simp] theorem State.afterEnvironment_pc : s.afterEnvironment.pc = s.pc := by
  unfold State.afterEnvironment; split <;> simp
@[simp] theorem State.afterEnvironment_csrs : s.afterEnvironment.csrs = s.tick.csrs := by
  unfold State.afterEnvironment; split <;> simp
@[simp] theorem State.afterEnvironment_mem : s.afterEnvironment.mem = s.mem := by
  unfold State.afterEnvironment; split <;> simp
@[simp] theorem State.afterEnvironment_storedCode : s.afterEnvironment.storedCode = s.storedCode := by
  unfold State.afterEnvironment; split <;> simp
@[simp] theorem State.afterEnvironment_extInService : s.afterEnvironment.extInService = s.extInService := by
  unfold State.afterEnvironment; split <;> simp
@[simp] theorem State.afterEnvironment_trapDepth : s.afterEnvironment.trapDepth = s.trapDepth := by
  unfold State.afterEnvironment; split <;> simp
@[simp] theorem State.afterEnvironment_asleep : s.afterEnvironment.asleep = s.asleep := by
  unfold State.afterEnvironment; split <;> simp
@[simp] theorem State.afterEnvironment_simOutput : s.afterEnvironment.simOutput = s.simOutput := by
  unfold State.afterEnvironment; split <;> simp
@[simp] theorem State.afterEnvironment_simEnded : s.afterEnvironment.simEnded = s.simEnded := by
  unfold State.afterEnvironment; split <;> simp
@[simp] theorem State.afterEnvironment_softResetReq : s.afterEnvironment.softResetReq = s.softResetReq := by
  unfold State.afterEnvironment; split <;> simp
@[simp] theorem State.afterEnvironment_inputs : s.afterEnvironment.inputs = s.inputs.tail := by
  unfold State.afterEnvironment; split <;> simp
@[simp] theorem State.afterEnvironment_freeIndex : s.afterEnvironment.freeIndex = s.freeIndex + 1 := by
  unfold State.afterEnvironment; split <;> simp

end Sys2Proof.Machine
end

