-- ==== Sys2Proof/Laws/Memory.lean ====
section
/-! SUPPORT. The laws of memory (20_memory.md R86, R87): a byte reads as last written, a write leaves every other byte
alone, and every operation keeps the canonical form. -/

namespace Sys2Proof.Machine

theorem memLookup_memInsert (m : Memory) (a : Nat) (b : Byte) (c : Nat) :
    memLookup (memInsert m a b) c = if c = a then some b else memLookup m c := by
  induction m with
  | nil => simp [memInsert, memLookup, eq_comm]
  | cons d m ih =>
    unfold memInsert
    split
    · simp [memLookup, eq_comm]
    · split
      · rename_i h; simp only [memLookup, h]
        by_cases hc : c = d.1
        · simp [hc]
        · simp [hc, Ne.symm hc]
      · rename_i h1 h2
        simp only [memLookup, ih]
        by_cases hc : d.1 = c
        · have : c ≠ a := by omega
          simp [hc, this]
        · simp [hc]

/-- Every address of a memory after an insertion was there before or is the inserted one. -/
theorem mem_memInsert {m : Memory} {a : Nat} {b : Byte} {c : Host.Cell} (h : c ∈ memInsert m a b) :
    c = (a, b) ∨ c ∈ m := by
  induction m with
  | nil => simpa [memInsert] using h
  | cons d m ih =>
    unfold memInsert at h
    split at h
    · simpa using h
    · split at h
      · rcases List.mem_cons.mp h with h | h
        · exact .inl h
        · exact .inr (List.mem_cons_of_mem _ h)
      · rcases List.mem_cons.mp h with h | h
        · exact .inr (by simp [h])
        · exact (ih h).imp id (List.mem_cons_of_mem _)

theorem memInsert_pairwise {m : Memory} (h : m.Pairwise (fun c d => c.1 < d.1)) (a : Nat) (b : Byte) :
    (memInsert m a b).Pairwise (fun c d => c.1 < d.1) := by
  induction m with
  | nil => simp [memInsert]
  | cons d m ih =>
    obtain ⟨h1, h2⟩ := List.pairwise_cons.mp h
    unfold memInsert
    split
    · rename_i hlt
      refine List.pairwise_cons.mpr ⟨fun c hc => ?_, h⟩
      rcases List.mem_cons.mp hc with rfl | hc
      · exact hlt
      · exact Nat.lt_trans hlt (h1 c hc)
    · split
      · rename_i heq
        exact List.pairwise_cons.mpr ⟨fun c hc => by simpa [heq] using h1 c hc, h2⟩
      · refine List.pairwise_cons.mpr ⟨fun c hc => ?_, ih h2⟩
        rcases mem_memInsert hc with rfl | hc
        · simp only; omega
        · exact h1 c hc

/-- A byte write inside the 32-bit space keeps the canonical form. -/
theorem memInsert_wf {m : Memory} (h : Memory.wf m) {a : Nat} (ha : a < 2 ^ 32) (b : Byte) :
    Memory.wf (memInsert m a b) :=
  ⟨memInsert_pairwise h.1 a b, fun c hc => (mem_memInsert hc).elim (fun e => by simpa [e] using ha) (h.2 c)⟩

/-- A write of `n` bytes that ends inside the 32-bit space keeps the canonical form. -/
theorem memWriteBytes_wf {m : Memory} (h : Memory.wf m) (a : Nat) (v : Word) (n : Nat) (ha : a + n ≤ 2 ^ 32) :
    Memory.wf (memWriteBytes m a v n) := by
  induction n with
  | zero => exact h
  | succ n ih => exact memInsert_wf (ih (by omega)) (by omega) _

/-- All that a write of `n` bytes does to the bytes of memory. -/
theorem memLookup_memWriteBytes (m : Memory) (a : Nat) (v : Word) (n c : Nat) :
    memLookup (memWriteBytes m a v n) c =
      if a ≤ c ∧ c < a + n then some (byteOfWord v (c - a)) else memLookup m c := by
  induction n with
  | zero => simp [memWriteBytes]
  | succ n ih =>
    simp only [memWriteBytes, memLookup_memInsert, ih]
    by_cases h : c = a + n
    · subst h; simp
    · by_cases h' : a ≤ c ∧ c < a + n
      · have : a ≤ c ∧ c < a + (n + 1) := by omega
        simp [h, h', this]
      · have : ¬ (a ≤ c ∧ c < a + (n + 1)) := by omega
        simp [h, h', this]

theorem State.byteAt_congr {s t : State} (h : t.mem = s.mem) (a : Nat) : t.byteAt a = s.byteAt a := by
  unfold State.byteAt; rw [h]

/-- A byte of memory after a store in a memory range: the stored bytes and no other (R87). -/
theorem State.byteAt_writeBytes (s : State) (k : RegionKind) (a : Nat) (v : Word) (n c : Nat) :
    (s.writeBytes k a v n).byteAt c = if a ≤ c ∧ c < a + n then byteOfWord v (c - a) else s.byteAt c := by
  unfold State.byteAt
  simp only [writeBytes_mem, memLookup_memWriteBytes]
  split <;> rename_i h <;> split at h <;> simp_all

@[simp] theorem State.byteAt_setPc (s : State) (t : Word) (a : Nat) : (s.setPc t).byteAt a = s.byteAt a := rfl
@[simp] theorem State.byteAt_advance (s : State) (a : Nat) : s.advance.byteAt a = s.byteAt a := rfl
@[simp] theorem State.byteAt_drawn (s : State) (a : Nat) : s.drawn.byteAt a = s.byteAt a := rfl
@[simp] theorem State.byteAt_writeReg (s : State) (r : RegNum) (v : Word) (a : Nat) :
    (s.writeReg r v).byteAt a = s.byteAt a := State.byteAt_congr (by simp) a
@[simp] theorem State.byteAt_takeTrap (s : State) (c : TrapCause) (a : Nat) : (s.takeTrap c).byteAt a = s.byteAt a := rfl
@[simp] theorem State.byteAt_trapReturn (s : State) (a : Nat) : s.trapReturn.byteAt a = s.byteAt a := rfl

/-! ### The addresses that stores have written in the program memory (R100) -/

theorem mem_addrInsert (l : List Nat) (a b : Nat) : b ∈ addrInsert l a ↔ b = a ∨ b ∈ l := by
  induction l with
  | nil => simp [addrInsert]
  | cons c l ih =>
    unfold addrInsert
    split
    · simp
    · split
      · rename_i h; simp [h]
      · simp [ih]; tauto

theorem addrInsert_pairwise {l : List Nat} (h : l.Pairwise (· < ·)) (a : Nat) : (addrInsert l a).Pairwise (· < ·) := by
  induction l with
  | nil => simp [addrInsert]
  | cons c l ih =>
    obtain ⟨h1, h2⟩ := List.pairwise_cons.mp h
    unfold addrInsert
    split
    · rename_i hlt
      refine List.pairwise_cons.mpr ⟨fun d hd => ?_, h⟩
      rcases List.mem_cons.mp hd with rfl | hd
      · exact hlt
      · exact Nat.lt_trans hlt (h1 d hd)
    · split
      · exact h
      · refine List.pairwise_cons.mpr ⟨fun d hd => ?_, ih h2⟩
        rcases (mem_addrInsert _ _ _).mp hd with rfl | hd
        · omega
        · exact h1 d hd

theorem mem_addrInsertRange (l : List Nat) (a n b : Nat) :
    b ∈ addrInsertRange l a n ↔ (a ≤ b ∧ b < a + n) ∨ b ∈ l := by
  induction n with
  | zero =>
    simp only [addrInsertRange]
    exact ⟨.inr, fun h => h.elim (fun h => by omega) id⟩
  | succ n ih =>
    simp only [addrInsertRange, mem_addrInsert, ih]
    constructor
    · rintro (h | h | h)
      · exact .inl (by omega)
      · exact .inl (by omega)
      · exact .inr h
    · rintro (h | h)
      · by_cases e : b = a + n
        · exact .inl e
        · exact .inr (.inl (by omega))
      · exact .inr (.inr h)

theorem addrInsertRange_pairwise {l : List Nat} (h : l.Pairwise (· < ·)) (a n : Nat) :
    (addrInsertRange l a n).Pairwise (· < ·) := by
  induction n with
  | zero => exact h
  | succ n ih => exact addrInsert_pairwise ih _

end Sys2Proof.Machine
end

