-- ==== Sys2Proof/Laws/Registers.lean ====
section
/-! SUPPORT. Reading after writing a general register; x0 (10_state.md R21). -/

namespace Sys2Proof.Machine

variable (s : State)

@[simp] theorem State.readReg_zero : s.readReg 0#5 = 0#32 := rfl

theorem RegNum.toNat_ne {r q : RegNum} (h : q ≠ r) : r.toNat ≠ q.toNat :=
  fun e => h (BitVec.eq_of_toNat_eq e.symm)

/-- All that a register write does to reads. -/
theorem State.readReg_writeReg (r q : RegNum) (v : Word) :
    (s.writeReg r v).readReg q = if q = r ∧ r ≠ 0#5 then v else s.readReg q := by
  unfold State.writeReg State.readReg
  by_cases hr : r = 0#5
  · simp [hr]
  · by_cases h : q = r
    · subst h; simp [hr]
    · simp [hr, h, RegNum.toNat_ne h]

/-- Two states with the same registers read the same. -/
theorem State.readReg_congr {s t : State} (h : t.regs = s.regs) (r : RegNum) : t.readReg r = s.readReg r := by
  unfold State.readReg; rw [h]

@[simp] theorem State.readReg_setPc (t : Word) (r : RegNum) : (s.setPc t).readReg r = s.readReg r := rfl
@[simp] theorem State.readReg_advance (r : RegNum) : s.advance.readReg r = s.readReg r := rfl
@[simp] theorem State.readReg_drawn (r : RegNum) : s.drawn.readReg r = s.readReg r := rfl
@[simp] theorem State.readReg_takeTrap (c : TrapCause) (r : RegNum) : (s.takeTrap c).readReg r = s.readReg r := rfl
@[simp] theorem State.readReg_trapReturn (r : RegNum) : s.trapReturn.readReg r = s.readReg r := rfl
@[simp] theorem State.readReg_writeBytes (k : RegionKind) (a : Nat) (v : Word) (n : Nat) (r : RegNum) :
    (s.writeBytes k a v n).readReg r = s.readReg r := rfl

/-- Slot 0 of the register file stays as it is. -/
theorem State.writeReg_slot_zero (r : RegNum) (v : Word) : (s.writeReg r v).regs[0] = s.regs[0] := by
  unfold State.writeReg
  by_cases hr : r = 0#5
  · simp [hr]
  · have : r.toNat ≠ 0 := fun e => hr (BitVec.eq_of_toNat_eq (by simpa using e))
    simp [hr, this]

/-- A register write changes the register file alone. -/
theorem State.writeReg_eq (r : RegNum) (v : Word) : s.writeReg r v = { s with regs := (s.writeReg r v).regs } := by
  unfold State.writeReg; split <;> rfl

end Sys2Proof.Machine
end

