-- ==== Sys2Proof/Laws/Ops.lean ====
section
/-! SUPPORT. One lemma for each shared operation that says once everything it can do. -/

namespace Sys2Proof.Machine

variable {s t : State}

/-- `andThen` goes on exactly from a next state. -/
theorem andThen_next {r : Result} {k : State → Result} :
    andThen r k = .next t ↔ ∃ u, r = .next u ∧ k u = .next t := by
  cases r <;> simp [andThen]

@[simp] theorem andThen_of_next (k : State → Result) : andThen (.next s) k = k s := rfl
@[simp] theorem andThen_of_fault (f : Fault) (k : State → Result) : andThen (.fault f) k = .fault f := rfl
@[simp] theorem andThen_of_refused (x : Refusal) (k : State → Result) : andThen (.refused x) k = .refused x := rfl

/-- A result in `rd` and nothing else but the pc. -/
theorem State.result_next {rd : RegNum} {v : Word} : s.result rd v = .next t ↔ t = (s.writeReg rd v).advance := by
  simp [State.result, eq_comm]

/-- A branch moves the pc and nothing else. -/
theorem State.branchIf_next {b : Bool} {o : BitVec 13} :
    s.branchIf b o = .next t ↔ t = s.setPc (if b then s.branchTarget o else s.pc + 4) := by
  cases b <;> simp [State.branchIf, State.advance, eq_comm]

/-- An access goes on only when it is aligned, mapped, permitted and answered without error. -/
theorem State.withAccess_next {ea : Word} {w : Width} {b : Bool} {k : Region → Result} :
    s.withAccess ea w b k = .next t ↔
      ea.toNat % widthBytes w = 0 ∧
        ∃ r, Config.dataRegion s.config ea.toNat (widthBytes w) b = some r ∧ r.answersError = false ∧ k r = .next t := by
  unfold State.withAccess
  by_cases h : ea.toNat % widthBytes w = 0
  · cases hr : Config.dataRegion s.config ea.toNat (widthBytes w) b with
    | none => simp [h]
    | some r => cases he : r.answersError <;> simp [h, he]
  · simp [h]

/-- The range of an access covers it and permits it. -/
theorem Config.dataRegion_some {c : Config} {a n : Nat} {b : Bool} {r : Region} (h : Config.dataRegion c a n b = some r) :
    r ∈ c.memoryMap ∧ Region.covers r a n = true ∧ (if b then r.writable else r.readable) = true := by
  have h1 := List.mem_of_find?_eq_some h
  have h2 := List.find?_some h
  exact ⟨h1, by simpa using h2⟩

/-- A load that completes writes `rd` and advances; from a device it also uses up a free value. -/
theorem State.load_next {rd : RegNum} {ea : Word} {w : Width} {b : Bool} (h : s.load rd ea w b = .next t) :
    (t = (s.writeReg rd (extendRead w b (s.readBytes ea.toNat w))).advance) ∨
      (t = (s.drawn.writeReg rd (extendRead w b (Config.deviceAnswer s.freeIndex))).advance) := by
  obtain ⟨-, r, -, -, hk⟩ := State.withAccess_next.mp h
  cases hkind : r.kind <;> simp only [hkind] at hk <;> cases hk
  · exact .inl rfl
  · exact .inl rfl
  · exact .inr rfl

/-- A store that completes writes its bytes in a memory range and advances; on a device it only advances. -/
theorem State.store_next {ea : Word} {w : Width} {v : Word} (h : s.store ea w v = .next t) :
    (∃ r ∈ s.config.memoryMap, Region.covers r ea.toNat (widthBytes w) = true ∧
        ea.toNat % widthBytes w = 0 ∧ t = (s.writeBytes r.kind ea.toNat v (widthBytes w)).advance) ∨
      t = s.advance := by
  obtain ⟨ha, r, hr, -, hk⟩ := State.withAccess_next.mp h
  obtain ⟨hm, hc, -⟩ := Config.dataRegion_some hr
  cases hkind : r.kind <;> simp only [hkind] at hk <;> cases hk
  · exact .inl ⟨r, hm, hc, ha, by rw [hkind]⟩
  · exact .inl ⟨r, hm, hc, ha, by rw [hkind]⟩
  · exact .inr rfl

/-- A CSR write that completes changes control registers and, for three addresses, an output to the host. -/
theorem State.csrWrite_next {a : CsrAddr} {v : Word} (h : s.csrWrite a v = .next t) :
    (∃ c, t = { s with csrs := c }) ∨ (∃ b, a = 0x346#12 ∧ t = { s with simOutput := s.simOutput ++ [b] }) ∨
      (a = 0x347#12 ∧ t = { s with simEnded := true }) ∨
      (∃ c, a = 0xB88#12 ∧ t = { s with csrs := c, softResetReq := s.softResetReq || v.getLsbD 3 }) := by
  unfold State.csrWrite at h
  split at h
  all_goals (repeat' split at h)
  all_goals first | contradiction | skip
  all_goals simp only [Host.Outcome.next.injEq] at h
  all_goals subst h
  all_goals first
    | exact .inl ⟨_, rfl⟩
    | exact .inr (.inl ⟨_, rfl, rfl⟩)
    | exact .inr (.inr (.inl ⟨rfl, rfl⟩))
    | exact .inr (.inr (.inr ⟨_, rfl, rfl⟩))

/-- A CSR instruction that completes: the write, if it has one, then `rd`, if it reads, then the pc. -/
theorem State.csrAccess_next {op : CsrOp} {rd : RegNum} {a : CsrAddr} {v : Word} {rds wrs : Bool} :
    s.csrAccess op rd a v rds wrs = .next t ↔
      csrImplemented a = true ∧ (wrs && csrWriteOnly a && !(op == .write)) = false ∧
        ∃ u, (if wrs then (if rds && csrWriteOnly a then s.drawn else s).csrWrite a (csrNewValue op (s.csrRead a) v)
              else .next (if rds && csrWriteOnly a then s.drawn else s)) = .next u ∧
          t = (if rds then u.writeReg rd (s.csrRead a) else u).advance := by
  unfold State.csrAccess
  cases hi : csrImplemented a
  · simp
  · cases hw : (wrs && csrWriteOnly a && !(op == .write))
    · simp only [Bool.true_eq_false, Bool.false_eq_true, if_false, andThen_next, Host.Outcome.next.injEq, true_and]
      exact ⟨fun ⟨u, h1, h2⟩ => ⟨u, h1, h2.symm⟩, fun ⟨u, h1, h2⟩ => ⟨u, h1, h2.symm⟩⟩
    · simp

/-- The fetch answers a word exactly when the pc is aligned, inside the program memory and on bytes no store has
written (20_memory.md R88, R90, R100). -/
theorem State.fetch_ok {w : Word} :
    s.fetch = .ok w ↔
      s.pc.toNat % 4 = 0 ∧ Config.inProgramMemory s.config s.pc.toNat 4 = true ∧
        (∀ b ∈ s.storedCode, ¬ (s.pc.toNat ≤ b ∧ b < s.pc.toNat + 4)) ∧
        w = wordOfBytes (s.byteAt s.pc.toNat) (s.byteAt (s.pc.toNat + 1)) (s.byteAt (s.pc.toNat + 2))
              (s.byteAt (s.pc.toNat + 3)) := by
  have key : ([s.pc.toNat, s.pc.toNat + 1, s.pc.toNat + 2, s.pc.toNat + 3].any (fun b => s.storedCode.contains b)) = false ↔
      ∀ b ∈ s.storedCode, ¬ (s.pc.toNat ≤ b ∧ b < s.pc.toNat + 4) := by
    simp only [List.any_eq_false, List.contains_iff_mem, List.mem_cons, List.not_mem_nil, or_false]
    constructor
    · intro h b hb ⟨h1, h2⟩
      exact h b (by omega) hb
    · rintro h b hb hc
      exact h b hc (by omega)
  unfold State.fetch
  simp only [← key]
  by_cases h1 : s.pc.toNat % 4 = 0
  · cases h2 : Config.inProgramMemory s.config s.pc.toNat 4
    · simp [h1]
    · cases h3 : ([s.pc.toNat, s.pc.toNat + 1, s.pc.toNat + 2, s.pc.toNat + 3].any (fun b => s.storedCode.contains b))
      · simp only [h1, ne_eq, not_true_eq_false, ite_false, Bool.true_eq_false, Except.ok.injEq, true_and,
          Bool.false_eq_true]
        exact eq_comm
      · simp [h1]
  · simp [h1]

/-- Some byte of the word at an address has been stored exactly when the four-fold test says so. -/
theorem any_storedCode {l : List Nat} {a : Nat} :
    [a, a + 1, a + 2, a + 3].any (fun b => l.contains b) = true ↔ ∃ b ∈ l, a ≤ b ∧ b < a + 4 := by
  simp only [List.any_cons, List.any_nil, Bool.or_eq_true, List.contains_iff_mem, Bool.or_false]
  constructor
  · rintro (h | h | h | h) <;> exact ⟨_, h, by omega⟩
  · rintro ⟨b, hb, h⟩
    have : b = a ∨ b = a + 1 ∨ b = a + 2 ∨ b = a + 3 := by omega
    rcases this with rfl | rfl | rfl | rfl <;> simp [hb]

/-- The three stops of the fetch, in their order (20_memory.md R90, R88, R100). -/
theorem State.fetch_misaligned (h : s.pc.toNat % 4 ≠ 0) : s.fetch = .error .misalignedPc := by
  simp [State.fetch, h]

theorem State.fetch_outside (h : s.pc.toNat % 4 = 0) (hp : Config.inProgramMemory s.config s.pc.toNat 4 = false) :
    s.fetch = .error .fetchOutsideProgramMemory := by
  simp [State.fetch, h, hp]

theorem State.fetch_modified (h : s.pc.toNat % 4 = 0) (hp : Config.inProgramMemory s.config s.pc.toNat 4 = true)
    (hc : ∃ b ∈ s.storedCode, s.pc.toNat ≤ b ∧ b < s.pc.toNat + 4) : s.fetch = .error .fetchOfModifiedCode := by
  unfold State.fetch
  simp only [any_storedCode.mpr hc, h, hp, ne_eq, not_true_eq_false, ite_false, Bool.true_eq_false, ite_true]

/-- What choosing an interrupt can answer: one of the takeable causes. -/
theorem firstByPriority_mem {cs : List TrapCause} {ks : List IrqKind} {c : TrapCause}
    (h : firstByPriority cs ks = some c) : c ∈ cs := by
  induction ks with
  | nil => simp [firstByPriority] at h
  | cons k ks ih =>
    unfold firstByPriority at h
    split at h
    · rename_i hf
      cases h
      exact List.mem_of_find?_eq_some hf
    · exact ih h

/-- The interrupt taken is takeable (60_exceptions.md R335). -/
theorem State.chooseInterrupt_mem {c : TrapCause} (h : s.chooseInterrupt = some c) : c ∈ s.takeable := by
  unfold State.chooseInterrupt at h
  split at h
  · contradiction
  · rename_i hc; cases h; simp [hc]
  · rename_i c0 cs _ hc
    rw [hc]
    split at h
    · cases h; exact firstByPriority_mem ‹_›
    · simp only [Option.some.injEq] at h
      subst h
      have hlt : Config.irqChoice s.freeIndex % (c0 :: cs).length < (c0 :: cs).length := Nat.mod_lt _ (by simp)
      rw [List.getD_eq_getElem _ _ hlt]
      exact List.getElem_mem hlt

/-- No interrupt is chosen exactly when none is takeable. -/
theorem State.chooseInterrupt_none : s.chooseInterrupt = none ↔ s.takeable = [] := by
  unfold State.chooseInterrupt
  split
  · simp_all
  · simp_all
  · rename_i hc; split <;> simp [hc]

theorem State.mem_enabledExternal {c : TrapCause} :
    c ∈ s.enabledExternal ↔ s.csrs.meie = true ∧ ∃ id, c = .external id ∧ s.extPending = some id := by
  unfold State.enabledExternal
  cases s.extPending with
  | none => simp
  | some j => cases s.csrs.meie <;> simp

/-- The takeable interrupts, one by one (60_exceptions.md R334). -/
theorem State.mem_takeable {c : TrapCause} :
    c ∈ s.takeable ↔ s.csrs.mie = true ∧
      ((c = .software ∧ s.csrs.msipPending = true ∧ s.csrs.msie = true) ∨
        (c = .timer ∧ s.mtip = true ∧ s.csrs.mtie = true) ∨
        (s.csrs.meie = true ∧ ∃ id, c = .external id ∧ s.extPending = some id)) := by
  unfold State.takeable
  cases s.csrs.mie
  · simp
  · simp only [if_true, List.mem_append, State.mem_enabledExternal, true_and, or_assoc]
    cases s.csrs.msipPending <;> cases s.csrs.msie <;> cases s.mtip <;> cases s.csrs.mtie <;> simp

end Sys2Proof.Machine
end

