-- ==== Sys2Proof/Laws/Effects.lean ====
section
/-! SUPPORT. The shapes of an instruction's effect (Safety), proved once for the shared operations. -/

namespace Sys2Proof.Machine

variable (s : State)

/-- A result in `rd`, then the pc: the whole effect and its frame. -/
theorem registerResult_writeReg (rd : RegNum) (v next : Word) :
    RegisterResult s ((s.writeReg rd v).setPc next) rd v next := by
  refine ⟨fun r => ?_, rfl, ?_, fun a => ?_⟩
  · simp [State.readReg_writeReg]
  · rw [State.writeReg_eq]; rfl
  · simp

theorem registerResult_result (rd : RegNum) (v : Word) :
    ∃ t, s.result rd v = .next t ∧ RegisterResult s t rd v (s.pc + 4) :=
  ⟨_, rfl, by simpa [State.advance] using registerResult_writeReg s rd v (s.pc + 4)⟩

/-- Moving the pc changes nothing else. -/
theorem onlyPc_setPc (next : Word) : OnlyPc s (s.setPc next) next :=
  ⟨rfl, fun _ => rfl, fun _ => rfl, rfl⟩

/-- A branch: to its target when taken, else past itself. -/
theorem onlyPc_branchIf (taken : Bool) (o : BitVec 13) :
    ∃ t, s.branchIf taken o = .next t ∧ OnlyPc s t (if taken then s.branchTarget o else s.pc + 4) := by
  cases taken
  · exact ⟨_, rfl, onlyPc_setPc s _⟩
  · exact ⟨_, rfl, onlyPc_setPc s _⟩

/-! ### Loads and stores that reach their range -/

variable {s}

/-- An access that reaches a range goes on in it. -/
theorem withAccess_of_reaches {ea : Word} {w : Width} {b : Bool} {kind : RegionKind} (k : Region → Result)
    (h : Reaches s ea (widthBytes w) b kind) : ∃ r : Region, r.kind = kind ∧ s.withAccess ea w b k = k r := by
  obtain ⟨h1, r, h2, h3, h4⟩ := h
  exact ⟨r, h4, by simp [State.withAccess, h1, h2, h3]⟩

/-- A load from memory. -/
theorem load_of_reachesMemory {rd : RegNum} {ea : Word} {w : Width} {signed : Bool}
    (h : ReachesMemory s ea (widthBytes w) false) :
    s.load rd ea w signed = .next ((s.writeReg rd (extendRead w signed (s.readBytes ea.toNat w))).advance) := by
  rcases h with ⟨h1, r, h2, h3, h4⟩ | ⟨h1, r, h2, h3, h4⟩ <;> simp [State.load, State.withAccess, h1, h2, h3, h4]

/-- A load from a device. -/
theorem load_of_reachesDevice {rd : RegNum} {ea : Word} {w : Width} {signed : Bool}
    (h : Reaches s ea (widthBytes w) false .device) :
    s.load rd ea w signed =
      .next ((s.drawn.writeReg rd (extendRead w signed (Config.deviceAnswer s.freeIndex))).advance) := by
  obtain ⟨h1, r, h2, h3, h4⟩ := h
  simp [State.load, State.withAccess, h1, h2, h3, h4]

/-- A store to memory, with the range's kind. -/
theorem store_of_reaches {ea v : Word} {w : Width} {kind : RegionKind} (h : Reaches s ea (widthBytes w) true kind)
    (hk : kind ≠ .device) : s.store ea w v = .next ((s.writeBytes kind ea.toNat v (widthBytes w)).advance) := by
  obtain ⟨h1, r, h2, h3, rfl⟩ := h
  cases e : r.kind <;> simp_all [State.store, State.withAccess]

/-- A store to a device. -/
theorem store_of_reachesDevice {ea v : Word} {w : Width} (h : Reaches s ea (widthBytes w) true .device) :
    s.store ea w v = .next s.advance := by
  obtain ⟨h1, r, h2, h3, h4⟩ := h
  simp [State.store, State.withAccess, h1, h2, h3, h4]

/-! ### Bytes as numbers -/

/-- Joining a vector and a byte, as numbers. -/
theorem toNat_append_byte {n : Nat} (x : BitVec n) (b : Byte) : (x ++ b).toNat = x.toNat * 256 + b.toNat := by
  rw [BitVec.toNat_append, Nat.shiftLeft_eq, Nat.mul_comm, ← Nat.two_pow_add_eq_or_of_lt b.isLt]

theorem byteOfWord_eq (v : Word) (k : Nat) : byteOfWord v k = BitVec.ofNat 8 (v.toNat / 256 ^ k) := by
  apply BitVec.eq_of_toNat_eq
  simp [byteOfWord, BitVec.extractLsb'_toNat, Nat.shiftRight_eq_div_pow, Nat.pow_mul]

end Sys2Proof.Machine
end

