-- ==== Sys2Proof/Laws/Csr.lean ====
section
/-! SUPPORT. The read and the write of every control register, one lemma per address, so that no proof unfolds the two
tables (48_csr.md R275, R276). -/

namespace Sys2Proof.Machine

variable (s : State) (v : Word)

/-! ### The halves of a 64-bit register -/

@[simp] theorem withLow_low (x : BitVec 64) : (withLow x v).extractLsb' 0 32 = v := by
  unfold withLow
  ext i hi
  simp only [BitVec.getElem_extractLsb', BitVec.getLsbD_append]
  grind

@[simp] theorem withLow_high (x : BitVec 64) : (withLow x v).extractLsb' 32 32 = x.extractLsb' 32 32 := by
  unfold withLow
  ext i hi
  simp only [BitVec.getElem_extractLsb', BitVec.getLsbD_append]
  grind

@[simp] theorem withHigh_low (x : BitVec 64) : (withHigh x v).extractLsb' 0 32 = x.extractLsb' 0 32 := by
  unfold withHigh
  ext i hi
  simp only [BitVec.getElem_extractLsb', BitVec.getLsbD_append]
  grind

@[simp] theorem withHigh_high (x : BitVec 64) : (withHigh x v).extractLsb' 32 32 = v := by
  unfold withHigh
  ext i hi
  simp only [BitVec.getElem_extractLsb', BitVec.getLsbD_append]
  grind

/-! ### Reads -/

@[simp] theorem State.csrRead_mstatus : s.csrRead 0x300#12 = bitAt s.csrs.mpie 7 ||| bitAt s.csrs.mie 3 := rfl
@[simp] theorem State.csrRead_misa : s.csrRead 0x301#12 = 0x40001100 := rfl
@[simp] theorem State.csrRead_mie : s.csrRead 0x304#12 = bitAt s.csrs.meie 11 ||| bitAt s.csrs.mtie 7 ||| bitAt s.csrs.msie 3 := rfl
@[simp] theorem State.csrRead_mtvec : s.csrRead 0x305#12 = s.csrs.mtvecBase ++ 1#2 := rfl
@[simp] theorem State.csrRead_mscratch : s.csrRead 0x340#12 = s.csrs.mscratch := rfl
@[simp] theorem State.csrRead_mepc : s.csrRead 0x341#12 = s.csrs.mepc := rfl
@[simp] theorem State.csrRead_mcause : s.csrRead 0x342#12 = s.csrs.mcause := rfl
@[simp] theorem State.csrRead_mtval : s.csrRead 0x343#12 = s.csrs.mtval := rfl
@[simp] theorem State.csrRead_mip : s.csrRead 0x344#12 = bitAt s.meip 11 ||| bitAt s.mtip 7 ||| bitAt s.csrs.msipPending 3 := rfl
@[simp] theorem State.csrRead_minstret : s.csrRead 0xB02#12 = s.csrs.minstret.extractLsb' 0 32 := rfl
@[simp] theorem State.csrRead_minstreth : s.csrRead 0xB82#12 = s.csrs.minstret.extractLsb' 32 32 := rfl
@[simp] theorem State.csrRead_mtime : s.csrRead 0xB03#12 = s.csrs.mtime.extractLsb' 0 32 := rfl
@[simp] theorem State.csrRead_mtimeh : s.csrRead 0xB83#12 = s.csrs.mtime.extractLsb' 32 32 := rfl
@[simp] theorem State.csrRead_mtimecmp : s.csrRead 0xB04#12 = s.csrs.mtimecmp.extractLsb' 0 32 := rfl
@[simp] theorem State.csrRead_mtimecmph : s.csrRead 0xB84#12 = s.csrs.mtimecmp.extractLsb' 32 32 := rfl
@[simp] theorem State.csrRead_mcctr : s.csrRead 0xB88#12 = s.csrs.mcctr.setWidth 32 := rfl
@[simp] theorem State.csrRead_mvendorid : s.csrRead 0xF11#12 = 0x00114514 := rfl
@[simp] theorem State.csrRead_marchid : s.csrRead 0xF12#12 = 0x00000001 := rfl
@[simp] theorem State.csrRead_mimpid : s.csrRead 0xF13#12 = s.config.mimpid := rfl
@[simp] theorem State.csrRead_mhartid : s.csrRead 0xF14#12 = 0x00000000 := rfl

/-! ### Writes -/

@[simp] theorem State.csrWrite_mstatus : s.csrWrite 0x300#12 v =
    (.next { s with csrs := { s.csrs with mie := v.getLsbD 3, mpie := v.getLsbD 7 } }) := rfl
@[simp] theorem State.csrWrite_misa : s.csrWrite 0x301#12 v = .next s := rfl
@[simp] theorem State.csrWrite_mvendorid : s.csrWrite 0xF11#12 v = .next s := rfl
@[simp] theorem State.csrWrite_marchid : s.csrWrite 0xF12#12 v = .next s := rfl
@[simp] theorem State.csrWrite_mimpid : s.csrWrite 0xF13#12 v = .next s := rfl
@[simp] theorem State.csrWrite_mhartid : s.csrWrite 0xF14#12 v = .next s := rfl
@[simp] theorem State.csrWrite_mie : s.csrWrite 0x304#12 v =
    (.next { s with csrs := { s.csrs with msie := v.getLsbD 3, mtie := v.getLsbD 7, meie := v.getLsbD 11 } }) := rfl
@[simp] theorem State.csrWrite_mtvec : s.csrWrite 0x305#12 v =
    (.next { s with csrs := { s.csrs with mtvecBase := v.extractLsb' 2 30 } }) := rfl
@[simp] theorem State.csrWrite_mscratch : s.csrWrite 0x340#12 v = .next { s with csrs := { s.csrs with mscratch := v } } := rfl
@[simp] theorem State.csrWrite_mepc : s.csrWrite 0x341#12 v = .next { s with csrs := { s.csrs with mepc := v } } := rfl
@[simp] theorem State.csrWrite_mcause : s.csrWrite 0x342#12 v = .next { s with csrs := { s.csrs with mcause := v } } := rfl
@[simp] theorem State.csrWrite_mtval : s.csrWrite 0x343#12 v = .next { s with csrs := { s.csrs with mtval := v } } := rfl
@[simp] theorem State.csrWrite_mip : s.csrWrite 0x344#12 v = .refused .writeToMip := rfl
@[simp] theorem State.csrWrite_msip : s.csrWrite 0x345#12 v =
    (if v = 1#32 then .next { s with csrs := { s.csrs with msipPending := true } } else if v = 0#32 then .next { s with csrs := { s.csrs with msipPending := false } } else .refused .msipValue) := rfl
@[simp] theorem State.csrWrite_mprints : s.csrWrite 0x346#12 v =
    (if v.extractLsb' 8 24 = 0#24 then .next { s with simOutput := s.simOutput ++ [v.setWidth 8] } else .refused .mprintsValue) := rfl
@[simp] theorem State.csrWrite_mends : s.csrWrite 0x347#12 v =
    (if v = 1#32 then .next { s with simEnded := true } else .refused .mendsValue) := rfl
@[simp] theorem State.csrWrite_minstret : s.csrWrite 0xB02#12 v =
    (.next { s with csrs := { s.csrs with minstret := withLow s.csrs.minstret v } }) := rfl
@[simp] theorem State.csrWrite_minstreth : s.csrWrite 0xB82#12 v =
    (.next { s with csrs := { s.csrs with minstret := withHigh s.csrs.minstret v } }) := rfl
@[simp] theorem State.csrWrite_mtime : s.csrWrite 0xB03#12 v =
    (.next { s with csrs := { s.csrs with mtime := withLow s.csrs.mtime v } }) := rfl
@[simp] theorem State.csrWrite_mtimeh : s.csrWrite 0xB83#12 v =
    (.next { s with csrs := { s.csrs with mtime := withHigh s.csrs.mtime v } }) := rfl
@[simp] theorem State.csrWrite_mtimecmp : s.csrWrite 0xB04#12 v =
    (.next { s with csrs := { s.csrs with mtimecmp := withLow s.csrs.mtimecmp v } }) := rfl
@[simp] theorem State.csrWrite_mtimecmph : s.csrWrite 0xB84#12 v =
    (.next { s with csrs := { s.csrs with mtimecmp := withHigh s.csrs.mtimecmp v } }) := rfl
@[simp] theorem State.csrWrite_mcctr : s.csrWrite 0xB88#12 v =
    (.next { s with csrs := { s.csrs with mcctr := v.setWidth 5 }, softResetReq := s.softResetReq || v.getLsbD 3 }) := rfl

/-- An address that is not implemented takes no write. -/
theorem State.csrWrite_unimplemented {a : CsrAddr} (h : csrImplemented a = false) :
    s.csrWrite a v = .refused .unimplementedCsr := by
  unfold State.csrWrite
  split <;> first | rfl | (exfalso; revert h; decide)

end Sys2Proof.Machine
end

