-- ==== Sys2Proof/Laws/Step.lean ====
section
/-! SUPPORT. What a step can do, said once (00_scope.md R13): the environment's part, the hart's part, and the
inversion of a step that answers a next state. -/

namespace Sys2Proof.Machine

variable {s t : State}

/-! ### The environment -/

/-- The timer touches `mtime` alone (60_exceptions.md R362). -/
theorem State.tick_eq (s : State) : s.tick = { s with csrs := { s.csrs with mtime := s.tick.csrs.mtime } } := by
  unfold State.tick; split <;> rfl

/-- What the acceptance of a request does (60_exceptions.md R367). -/
theorem State.acceptRequest_eq (s : State) : s.acceptRequest = s ∨
    ∃ id, s.extRequest = some id ∧ s.extPending = none ∧ s.acceptRequest =
      { s with extPending := some id, extRequest := none, plicSignals := s.plicSignals ++ [.accepted id] } := by
  unfold State.acceptRequest
  split
  · exact .inr ⟨_, ‹_›, ‹_›, rfl⟩
  · exact .inl rfl

/-- Before the acceptance: `mtime`, the wires, the input and the index of free values. -/
theorem State.environment_eq (s : State) : ∃ m r, s.environment =
    { s with csrs := { s.csrs with mtime := m }, extRequest := r, inputs := s.inputs.tail
             freeIndex := s.freeIndex + 1 } := by
  refine ⟨s.tick.csrs.mtime, s.environment.extRequest, ?_⟩
  unfold State.environment State.plicRaises
  dsimp only
  split <;> rw [s.tick_eq]

/-- With the acceptance: also the pending id and the PLIC's signals. -/
theorem State.after_eq (s : State) : ∃ m r p l, s.afterEnvironment =
    { s with csrs := { s.csrs with mtime := m }, extRequest := r, extPending := p, plicSignals := l
             inputs := s.inputs.tail, freeIndex := s.freeIndex + 1 } := by
  obtain ⟨m, r, h⟩ := s.environment_eq
  unfold State.afterEnvironment
  split
  · rcases s.environment.acceptRequest_eq with e | ⟨id, _, _, e⟩
    · exact ⟨m, r, s.extPending, s.plicSignals, by rw [e, h]⟩
    · exact ⟨m, none, some id, s.plicSignals ++ [.accepted id], by rw [e, h]⟩
  · exact ⟨m, r, s.extPending, s.plicSignals, h⟩

/-- The environment touches only what is its own. -/
theorem sameBesidesEnvironment_after (s : State) : SameBesidesEnvironment s s.afterEnvironment := by
  obtain ⟨m, r, p, l, h⟩ := s.after_eq
  rw [h]; rfl

/-- The index of free values after the environment's moves. -/
@[simp] theorem State.after_freeIndex : s.afterEnvironment.freeIndex = s.freeIndex + 1 := by
  obtain ⟨m, r, p, l, h⟩ := s.after_eq
  rw [h]

@[simp] theorem State.after_inputs : s.afterEnvironment.inputs = s.inputs.tail := by
  obtain ⟨m, r, p, l, h⟩ := s.after_eq
  rw [h]

/-- The control registers but `mtime`. -/
theorem State.after_csrs : ∃ m, s.afterEnvironment.csrs = { s.csrs with mtime := m } := by
  obtain ⟨m, r, p, l, h⟩ := s.after_eq
  exact ⟨m, by rw [h]⟩

/-! ### One step -/

/-- A hart that runs takes a step on the state after the environment's moves. -/
theorem step_of_running (h : s.running) : step s = s.afterEnvironment.hartStep s.nextInput.coreError := by
  obtain ⟨h1, h2, h3, h4⟩ := h
  simp [Machine.step, State.fullStep, h1, h2, h3, h4]

/-- A step at an instruction runs it. -/
theorem step_of_atInstruction (h : s.atInstruction) : step s = s.afterEnvironment.runInstruction := by
  obtain ⟨hr, hc, ht, ha⟩ := h
  rw [step_of_running hr, State.hartStep, hc, State.chooseInterrupt_none.mpr ht, ha]
  rfl

/-- The fetch yields a word exactly when it is `fetches`. -/
theorem State.fetch_iff {w : Word} : s.fetch = .ok w ↔ s.fetches w := by
  rw [State.fetch_ok]; rfl

/-- All that a step of the hart can do. -/
theorem State.hartStep_next {e : Bool} (h : s.hartStep e = .next t) :
    (e = true ∧ t = s.takeTrap .coreException) ∨
      (e = false ∧ ∃ c ∈ s.takeable, s.trapDepth = 0 ∧ t = s.takeTrap c) ∨
      (e = false ∧ s.takeable = [] ∧ s.asleep = true ∧ t = s) ∨
      (e = false ∧ s.takeable = [] ∧ s.asleep = false ∧ s.runInstruction = .next t) := by
  unfold State.hartStep at h
  cases e
  · simp only [Bool.false_eq_true, if_false] at h
    cases hc : s.chooseInterrupt with
    | some c =>
      simp only [hc] at h
      split at h
      · cases h; exact .inr (.inl ⟨rfl, c, State.chooseInterrupt_mem hc, ‹_›, rfl⟩)
      · contradiction
    | none =>
      have ht := State.chooseInterrupt_none.mp hc
      simp only [hc] at h
      cases ha : s.asleep <;> simp only [ha, Bool.false_eq_true, if_false, if_true] at h
      · exact .inr (.inr (.inr ⟨rfl, ht, rfl, h⟩))
      · cases h; exact .inr (.inr (.inl ⟨rfl, ht, rfl, rfl⟩))
  · cases h; exact .inl ⟨rfl, rfl⟩

/-- All that the running of an instruction can do. -/
theorem State.runInstruction_next (h : s.runInstruction = .next t) :
    ∃ w, s.fetches w ∧
      ((∃ i u, decode s.config.rve s.config.hasM w = .ok i ∧ exec i s = .next u ∧
          t = u.retire i (s.csrs.mcctr.getLsbD 1)) ∨
        (s.config.unlistedPolicy = .trapCode1 ∧ t = s.takeTrap .coreException)) := by
  unfold State.runInstruction at h
  cases hf : s.fetch with
  | error x => simp [hf] at h
  | ok w =>
    refine ⟨w, State.fetch_iff.mp hf, ?_⟩
    simp only [hf] at h
    have hu : s.unlisted w = .next t → s.config.unlistedPolicy = .trapCode1 ∧ t = s.takeTrap .coreException := by
      unfold State.unlisted
      cases s.config.unlistedPolicy <;> simp [eq_comm]
    cases hd : decode s.config.rve s.config.hasM w with
    | ok i =>
      simp only [hd, andThen_next, Host.Outcome.next.injEq] at h
      obtain ⟨u, h1, h2⟩ := h
      exact .inl ⟨i, u, rfl, h1, h2.symm⟩
    | error e =>
      simp only [hd] at h
      cases e <;> first | exact .inr (hu h) | contradiction

/-- All that a step can do (00_scope.md R13): a rest while halted or asleep, a trap, an instruction. -/
theorem step_next (h : step s = .next t) :
    s.simEnded = false ∧ s.softResetReq = false ∧ s.environment.badExternalId = false ∧
      (t = s.afterEnvironment ∨ (∃ c, (c = .coreException ∨ c ∈ s.afterEnvironment.takeable ∧ s.trapDepth = 0) ∧
          t = s.afterEnvironment.takeTrap c) ∨
        ∃ w i u, s.atInstruction ∧ s.afterEnvironment.fetches w ∧
          decode s.config.rve s.config.hasM w = .ok i ∧ exec i s.afterEnvironment = .next u ∧
          t = u.retire i (s.csrs.mcctr.getLsbD 1)) := by
  have hm : s.afterEnvironment.csrs.mcctr = s.csrs.mcctr := by
    obtain ⟨m, e⟩ := s.after_csrs
    rw [e]
  unfold Machine.step State.fullStep at h
  split at h
  · contradiction
  split at h
  · contradiction
  split at h
  · contradiction
  rename_i h1 h2 h3
  simp only [Bool.not_eq_true] at h1 h2 h3
  refine ⟨h1, h2, h3, ?_⟩
  split at h
  · cases h; exact .inl rfl
  rename_i h4
  simp only [Bool.not_eq_true] at h4
  rcases State.hartStep_next h with ⟨_, rfl⟩ | ⟨_, c, hc, hd, rfl⟩ | ⟨_, _, _, rfl⟩ | ⟨he, ht, ha, hr⟩
  · exact .inr (.inl ⟨_, .inl rfl, rfl⟩)
  · exact .inr (.inl ⟨c, .inr ⟨hc, by simpa using hd⟩, rfl⟩)
  · exact .inl rfl
  · obtain ⟨w, hw, ⟨i, u, hd, hx, rfl⟩ | ⟨_, rfl⟩⟩ := State.runInstruction_next hr
    · exact .inr (.inr ⟨w, i, u, ⟨⟨h1, h2, h3, h4⟩, he, ht, ha⟩, hw, by simpa using hd, hx, by rw [hm]⟩)
    · exact .inr (.inl ⟨_, .inl rfl, rfl⟩)

end Sys2Proof.Machine
end

