-- ==== Sys2Proof/Laws/Exec.lean ====
section
/-! SUPPORT. The inversion of `exec`: all the ways in which an instruction that completes can change the state. A proof
about every instruction starts here and never splits `exec` again. -/

namespace Sys2Proof.Machine

variable {s t : State}

/-- Only registers, the pc and the index of free values, slot 0 excepted. -/
def RegsPcOnly (s t : State) : Prop :=
  ∃ rs p f, t = { s with regs := rs, pc := p, freeIndex := f } ∧ rs[0] = s.regs[0] ∧ s.freeIndex ≤ f

theorem regsPcOnly_writeReg (s : State) (rd : RegNum) (v p : Word) : RegsPcOnly s ((s.writeReg rd v).setPc p) :=
  ⟨(s.writeReg rd v).regs, p, s.freeIndex, by rw [State.writeReg_eq]; rfl, State.writeReg_slot_zero s rd v, Nat.le_refl _⟩

theorem regsPcOnly_result {rd : RegNum} {v : Word} (h : s.result rd v = .next t) : RegsPcOnly s t := by
  rw [State.result_next] at h
  subst h
  exact regsPcOnly_writeReg ..

theorem regsPcOnly_branchIf {b : Bool} {o : BitVec 13} (h : s.branchIf b o = .next t) : RegsPcOnly s t := by
  rw [State.branchIf_next] at h
  subst h
  exact ⟨s.regs, _, s.freeIndex, rfl, rfl, Nat.le_refl _⟩

theorem regsPcOnly_load {rd : RegNum} {ea : Word} {w : Width} {signed : Bool} (h : s.load rd ea w signed = .next t) :
    RegsPcOnly s t := by
  rcases State.load_next h with rfl | rfl
  · exact regsPcOnly_writeReg ..
  · generalize extendRead w signed (Config.deviceAnswer s.freeIndex) = v
    refine ⟨(s.writeReg rd v).regs, (s.pc + 4), s.freeIndex + 1, ?_, State.writeReg_slot_zero s rd v, Nat.le_succ _⟩
    unfold State.writeReg State.drawn State.advance State.setPc
    split <;> rfl

/-- An instruction of the list is counted unless it writes the counter (60_exceptions.md R360). -/
theorem countsInMinstret_eq {i : Instr} (h : isUnlisted i = false) :
    countsInMinstret i = !writesCsr i (fun a => a == 0xB02#12 || a == 0xB82#12) := by
  cases i <;> first | rfl | cases h

/-- The six CSR forms as one access: which register, which operand, which halves. -/
def AsCsrAccess (i : Instr) (s t : State) : Prop :=
  ∃ op rd a v rds wrs, s.csrAccess op rd a v rds wrs = .next t ∧ (∀ p : CsrAddr → Bool, writesCsr i p = (p a && wrs)) ∧
    (countsInMinstret i = !((a == 0xB02#12 || a == 0xB82#12) && wrs))

/-- All that an instruction that completes can do. -/
theorem exec_next {i : Instr} (h : exec i s = .next t) :
    RegsPcOnly s t ∨
      (∃ rs2 rs1 imm w,
        (i = .sb rs2 rs1 imm ∧ w = .byte ∨ i = .sh rs2 rs1 imm ∧ w = .half ∨ i = .sw rs2 rs1 imm ∧ w = .word) ∧
        s.store (s.effectiveAddress rs1 imm) w (s.readReg rs2) = .next t) ∨
      AsCsrAccess i s t ∨
      (i = .mret ∧ t = s.trapReturn) ∨
      (i = .wfi ∧ t = { s.advance with asleep := true }) ∨
      (isUnlisted i = true ∧ t = s.takeTrap .coreException) := by
  have hu : ∀ w, s.unlisted w = .next t → t = s.takeTrap .coreException := by
    intro w
    unfold State.unlisted
    cases s.config.unlistedPolicy <;> simp [eq_comm]
  cases i
  case jalr rd rs1 imm =>
    refine .inl ?_
    simp only [exec, execJalr] at h
    split at h
    · contradiction
    · cases h; exact regsPcOnly_writeReg ..
  case jal rd o => cases h; exact .inl (regsPcOnly_writeReg ..)
  case mret => cases h; exact .inr (.inr (.inr (.inl ⟨rfl, rfl⟩)))
  case wfi => cases h; exact .inr (.inr (.inr (.inr (.inl ⟨rfl, rfl⟩))))
  case fence => exact .inr (.inr (.inr (.inr (.inr ⟨rfl, hu _ h⟩))))
  case ecall => exact .inr (.inr (.inr (.inr (.inr ⟨rfl, hu _ h⟩))))
  case ebreak => exact .inr (.inr (.inr (.inr (.inr ⟨rfl, hu _ h⟩))))
  case sb rs2 rs1 imm => exact .inr (.inl ⟨rs2, rs1, imm, .byte, .inl ⟨rfl, rfl⟩, h⟩)
  case sh rs2 rs1 imm => exact .inr (.inl ⟨rs2, rs1, imm, .half, .inr (.inl ⟨rfl, rfl⟩), h⟩)
  case sw rs2 rs1 imm => exact .inr (.inl ⟨rs2, rs1, imm, .word, .inr (.inr ⟨rfl, rfl⟩), h⟩)
  case csrrw rd a rs1 =>
    exact .inr (.inr (.inl ⟨_, _, _, _, _, _, h, fun p => by simp [writesCsr], by simp [countsInMinstret]⟩))
  case csrrs rd a rs1 => exact .inr (.inr (.inl ⟨_, _, _, _, _, _, h, fun p => rfl, rfl⟩))
  case csrrc rd a rs1 => exact .inr (.inr (.inl ⟨_, _, _, _, _, _, h, fun p => rfl, rfl⟩))
  case csrrwi rd a u =>
    exact .inr (.inr (.inl ⟨_, _, _, _, _, _, h, fun p => by simp [writesCsr], by simp [countsInMinstret]⟩))
  case csrrsi rd a u => exact .inr (.inr (.inl ⟨_, _, _, _, _, _, h, fun p => rfl, rfl⟩))
  case csrrci rd a u => exact .inr (.inr (.inl ⟨_, _, _, _, _, _, h, fun p => rfl, rfl⟩))
  all_goals first
    | exact .inl (regsPcOnly_result h)
    | exact .inl (regsPcOnly_branchIf h)
    | exact .inl (regsPcOnly_load h)

/-- A CSR instruction that completes touches control registers, general registers, the pc, the outputs to the host and
the index of free values; it touches a control register only through its write. -/
theorem State.csrAccess_frame {op : CsrOp} {rd : RegNum} {a : CsrAddr} {v : Word} {rds wrs : Bool}
    (h : s.csrAccess op rd a v rds wrs = .next t) :
    (∃ c o e q rs p f, t = { s with csrs := c, simOutput := o, simEnded := e, softResetReq := q, regs := rs, pc := p,
                                    freeIndex := f } ∧ rs[0] = s.regs[0] ∧ s.freeIndex ≤ f ∧
      (∃ l, o = s.simOutput ++ l ∧ l.length ≤ 1)) ∧
      (wrs = false → t.csrs = s.csrs) := by
  obtain ⟨_, _, u, hu, rfl⟩ := State.csrAccess_next.mp h
  have key : ∀ s' : State, s' = s ∨ s' = s.drawn → (if wrs then s'.csrWrite a (csrNewValue op (s.csrRead a) v)
      else .next s') = .next u → (∃ c o e q f, u = { s with csrs := c, simOutput := o, simEnded := e, softResetReq := q
                                                            freeIndex := f } ∧ s.freeIndex ≤ f ∧
        (∃ l, o = s.simOutput ++ l ∧ l.length ≤ 1)) ∧ (wrs = false → u.csrs = s.csrs) := by
    intro s' hs' hw
    cases wrs
    · cases hw
      rcases hs' with rfl | rfl
      · exact ⟨⟨_, _, _, _, _, rfl, Nat.le_refl _, [], by simp, by simp⟩, fun _ => rfl⟩
      · exact ⟨⟨_, _, _, _, _, rfl, Nat.le_succ _, [], by simp, by simp⟩, fun _ => rfl⟩
    · refine ⟨?_, fun e => by cases e⟩
      rw [if_pos rfl] at hw
      have hs : ∃ f, s' = { s with freeIndex := f } ∧ s.freeIndex ≤ f := by
        rcases hs' with rfl | rfl
        · exact ⟨_, rfl, Nat.le_refl _⟩
        · exact ⟨_, rfl, Nat.le_succ _⟩
      obtain ⟨f, rfl, hf⟩ := hs
      rcases State.csrWrite_next hw with ⟨c, rfl⟩ | ⟨b, _, rfl⟩ | ⟨_, rfl⟩ | ⟨c, _, rfl⟩
      · exact ⟨_, _, _, _, _, rfl, hf, [], by simp, by simp⟩
      · exact ⟨_, _, _, _, _, rfl, hf, [b], rfl, by simp⟩
      · exact ⟨_, _, _, _, _, rfl, hf, [], by simp, by simp⟩
      · exact ⟨_, _, _, _, _, rfl, hf, [], by simp, by simp⟩
  obtain ⟨⟨c, o, e, q, f, rfl, hf, hl⟩, hc⟩ := key _ (by cases (rds && csrWriteOnly a) <;> simp) hu
  refine ⟨?_, fun hw => by cases rds <;> simpa using hc hw⟩
  cases rds
  · exact ⟨c, o, e, q, s.regs, _, f, rfl, rfl, hf, hl⟩
  · refine ⟨c, o, e, q, ?rs, s.pc + 4, f, ?_, ?_, hf, hl⟩
    case rs => exact (({ s with csrs := c, simOutput := o, simEnded := e, softResetReq := q
                                freeIndex := f } : State).writeReg rd (s.csrRead a)).regs
    · rw [if_pos rfl, State.writeReg_eq]
      rfl
    · exact State.writeReg_slot_zero _ rd _

/-- Which outputs to the host, and when the software interrupt's request, a CSR write that completes touches
(48_csr.md R276, 60_exceptions.md R328): each only at its own address, `sim_ended` and `soft_reset_req` only upward. -/
structure OutputsByWrite (s t : State) (a : CsrAddr) (writes : Bool) : Prop where
  simOutput : t.simOutput ≠ s.simOutput → a = 0x346#12 ∧ writes = true
  simEnded : t.simEnded ≠ s.simEnded → a = 0x347#12 ∧ writes = true
  softResetReq : t.softResetReq ≠ s.softResetReq → a = 0xB88#12 ∧ writes = true
  simEndedStays : s.simEnded = true → t.simEnded = true
  softResetReqStays : s.softResetReq = true → t.softResetReq = true

theorem State.csrWrite_outputs {a : CsrAddr} {v : Word} (h : s.csrWrite a v = .next t) : OutputsByWrite s t a true := by
  rcases State.csrWrite_next h with ⟨c, rfl⟩ | ⟨b, ha, rfl⟩ | ⟨ha, rfl⟩ | ⟨c, ha, rfl⟩ <;> constructor <;> simp_all

/-- The write that changes the software interrupt's request is one of 0 or 1 to `msip` (60_exceptions.md R328). -/
theorem State.csrWrite_msipPending {a : CsrAddr} {v : Word} (h : s.csrWrite a v = .next t) :
    t.csrs.msipPending = s.csrs.msipPending ∨ a = 0x345#12 ∧ v = if t.csrs.msipPending then 1#32 else 0#32 := by
  unfold State.csrWrite at h
  split at h
  all_goals (repeat' split at h)
  all_goals first | contradiction | skip
  all_goals cases h
  all_goals first | exact .inl rfl | exact .inr ⟨rfl, ‹_›⟩

/-- A CSR instruction touches the outputs and the request only through its write. -/
theorem State.csrAccess_outputs {op : CsrOp} {rd : RegNum} {a : CsrAddr} {v : Word} {rds wrs : Bool}
    (h : s.csrAccess op rd a v rds wrs = .next t) : OutputsByWrite s t a wrs := by
  obtain ⟨_, _, u, hu, rfl⟩ := State.csrAccess_next.mp h
  have key : OutputsByWrite s u a wrs := by
    cases wrs
    · cases hu; split <;> constructor <;> simp
    · have := State.csrWrite_outputs hu
      revert this
      split <;> exact fun ⟨h1, h2, h3, h4, h5⟩ =>
        ⟨by simpa using h1, by simpa using h2, by simpa using h3, by simpa using h4, by simpa using h5⟩
  obtain ⟨h1, h2, h3, h4, h5⟩ := key
  cases rds <;>
    exact ⟨by simpa using h1, by simpa using h2, by simpa using h3, by simpa using h4, by simpa using h5⟩

theorem State.csrAccess_msipPending {op : CsrOp} {rd : RegNum} {a : CsrAddr} {v : Word} {rds wrs : Bool}
    (h : s.csrAccess op rd a v rds wrs = .next t) :
    t.csrs.msipPending = s.csrs.msipPending ∨
      a = 0x345#12 ∧ wrs = true ∧ op = .write ∧ v = if t.csrs.msipPending then 1#32 else 0#32 := by
  obtain ⟨_, hw, u, hu, rfl⟩ := State.csrAccess_next.mp h
  have hs : (if rds && csrWriteOnly a then s.drawn else s).csrs = s.csrs := by split <;> rfl
  have ht : (if rds then u.writeReg rd (s.csrRead a) else u).advance.csrs = u.csrs := by cases rds <;> simp
  rw [ht]
  cases wrs
  · cases hu; exact .inl (by rw [hs])
  · rcases State.csrWrite_msipPending hu with e | ⟨rfl, e⟩
    · exact .inl (by rw [e, hs])
    · have : op = .write := by cases op <;> simp_all [csrWriteOnly]
      subst this
      exact .inr ⟨rfl, rfl, rfl, e⟩

end Sys2Proof.Machine
end

