-- ==== Sys2Proof/Laws/PerInstr.lean ====
section
/-! SUPPORT. Statements made of each instruction, one lemma per constructor: the encoder's word agrees with the row that
30_encoding.md prints for the instruction (R131, R133). -/

namespace Sys2Proof

/-- The fields of a conjunction are the conjunctions of the fields. -/
theorem fieldsOf_and (x m : Word) : fieldsOf (x &&& m) =
    ⟨(fieldsOf x).funct7 &&& (fieldsOf m).funct7, (fieldsOf x).rs2 &&& (fieldsOf m).rs2,
      (fieldsOf x).rs1 &&& (fieldsOf m).rs1, (fieldsOf x).funct3 &&& (fieldsOf m).funct3,
      (fieldsOf x).rd &&& (fieldsOf m).rd, (fieldsOf x).opcode &&& (fieldsOf m).opcode⟩ := by
  simp only [fieldsOf, BitVec.extractLsb'_and]

theorem and_of_zero {n : Nat} {x y z : BitVec n} (h : y = 0#n) (hz : z = 0#n) : x &&& y = z := by
  subst h hz; simp

theorem and_of_ones {n : Nat} {x y z : BitVec n} (h : y = BitVec.allOnes n) (hz : z = x) : x &&& y = z := by
  subst h hz; simp

/-- A row of the R format: `funct7`, `funct3` and the opcode are fixed. -/
theorem rowR (f7 : BitVec 7) (f3 : BitVec 3) (op : BitVec 7) (rd rs1 rs2 : RegNum) {p : Word}
    (hp : fieldsOf p = ⟨f7, 0, 0, f3, 0, op⟩) : encodeR f7 f3 op rd rs1 rs2 &&& 0xFE00707F#32 = p := by
  apply fieldsOf_inj
  rw [fieldsOf_and, hp, encodeR, fieldsOf_wordOf]
  simp only [Fields.mk.injEq]
  exact ⟨and_of_ones (by decide) rfl, and_of_zero (by decide) rfl, and_of_zero (by decide) rfl,
    and_of_ones (by decide) rfl, and_of_zero (by decide) rfl, and_of_ones (by decide) rfl⟩

/-- A row of the I, S or B format: `funct3` and the opcode are fixed. -/
theorem rowI (f7 : BitVec 7) (f3 : BitVec 3) (op : BitVec 7) (rd rs1 rs2 : RegNum) {p : Word}
    (hp : fieldsOf p = ⟨0, 0, 0, f3, 0, op⟩) : encodeR f7 f3 op rd rs1 rs2 &&& 0x0000707F#32 = p := by
  apply fieldsOf_inj
  rw [fieldsOf_and, hp, encodeR, fieldsOf_wordOf]
  simp only [Fields.mk.injEq]
  exact ⟨and_of_zero (by decide) rfl, and_of_zero (by decide) rfl, and_of_zero (by decide) rfl,
    and_of_ones (by decide) rfl, and_of_zero (by decide) rfl, and_of_ones (by decide) rfl⟩

/-- A row of the U or J format: the opcode is fixed. -/
theorem rowU (f7 : BitVec 7) (f3 : BitVec 3) (op : BitVec 7) (rd rs1 rs2 : RegNum) {p : Word}
    (hp : fieldsOf p = ⟨0, 0, 0, 0, 0, op⟩) : encodeR f7 f3 op rd rs1 rs2 &&& 0x0000007F#32 = p := by
  apply fieldsOf_inj
  rw [fieldsOf_and, hp, encodeR, fieldsOf_wordOf]
  simp only [Fields.mk.injEq]
  exact ⟨and_of_zero (by decide) rfl, and_of_zero (by decide) rfl, and_of_zero (by decide) rfl,
    and_of_zero (by decide) rfl, and_of_zero (by decide) rfl, and_of_ones (by decide) rfl⟩

namespace Laws.RowMatch

/-- The word of the instruction agrees with its row's match under its row's mask. -/
def Statement (i : Instr) : Prop := encode i &&& i.row.mask = i.row.pattern

theorem add (rd rs1 rs2 : RegNum) : Statement (.add rd rs1 rs2) :=
  rowR _ _ _ _ _ _ (p := 0x00000033) (by decide)

theorem sub (rd rs1 rs2 : RegNum) : Statement (.sub rd rs1 rs2) :=
  rowR _ _ _ _ _ _ (p := 0x40000033) (by decide)

theorem xor (rd rs1 rs2 : RegNum) : Statement (.xor rd rs1 rs2) :=
  rowR _ _ _ _ _ _ (p := 0x00004033) (by decide)

theorem or (rd rs1 rs2 : RegNum) : Statement (.or rd rs1 rs2) :=
  rowR _ _ _ _ _ _ (p := 0x00006033) (by decide)

theorem and (rd rs1 rs2 : RegNum) : Statement (.and rd rs1 rs2) :=
  rowR _ _ _ _ _ _ (p := 0x00007033) (by decide)

theorem sll (rd rs1 rs2 : RegNum) : Statement (.sll rd rs1 rs2) :=
  rowR _ _ _ _ _ _ (p := 0x00001033) (by decide)

theorem srl (rd rs1 rs2 : RegNum) : Statement (.srl rd rs1 rs2) :=
  rowR _ _ _ _ _ _ (p := 0x00005033) (by decide)

theorem sra (rd rs1 rs2 : RegNum) : Statement (.sra rd rs1 rs2) :=
  rowR _ _ _ _ _ _ (p := 0x40005033) (by decide)

theorem slt (rd rs1 rs2 : RegNum) : Statement (.slt rd rs1 rs2) :=
  rowR _ _ _ _ _ _ (p := 0x00002033) (by decide)

theorem sltu (rd rs1 rs2 : RegNum) : Statement (.sltu rd rs1 rs2) :=
  rowR _ _ _ _ _ _ (p := 0x00003033) (by decide)

theorem addi (rd rs1 : RegNum) (imm : BitVec 12) : Statement (.addi rd rs1 imm) :=
  rowI _ _ _ _ _ _ (p := 0x00000013) (by decide)

theorem xori (rd rs1 : RegNum) (imm : BitVec 12) : Statement (.xori rd rs1 imm) :=
  rowI _ _ _ _ _ _ (p := 0x00004013) (by decide)

theorem ori (rd rs1 : RegNum) (imm : BitVec 12) : Statement (.ori rd rs1 imm) :=
  rowI _ _ _ _ _ _ (p := 0x00006013) (by decide)

theorem andi (rd rs1 : RegNum) (imm : BitVec 12) : Statement (.andi rd rs1 imm) :=
  rowI _ _ _ _ _ _ (p := 0x00007013) (by decide)

theorem slli (rd rs1 : RegNum) (shamt : BitVec 5) : Statement (.slli rd rs1 shamt) :=
  rowR _ _ _ _ _ _ (p := 0x00001013) (by decide)

theorem srli (rd rs1 : RegNum) (shamt : BitVec 5) : Statement (.srli rd rs1 shamt) :=
  rowR _ _ _ _ _ _ (p := 0x00005013) (by decide)

theorem srai (rd rs1 : RegNum) (shamt : BitVec 5) : Statement (.srai rd rs1 shamt) :=
  rowR _ _ _ _ _ _ (p := 0x40005013) (by decide)

theorem slti (rd rs1 : RegNum) (imm : BitVec 12) : Statement (.slti rd rs1 imm) :=
  rowI _ _ _ _ _ _ (p := 0x00002013) (by decide)

theorem sltiu (rd rs1 : RegNum) (imm : BitVec 12) : Statement (.sltiu rd rs1 imm) :=
  rowI _ _ _ _ _ _ (p := 0x00003013) (by decide)

theorem lb (rd rs1 : RegNum) (imm : BitVec 12) : Statement (.lb rd rs1 imm) :=
  rowI _ _ _ _ _ _ (p := 0x00000003) (by decide)

theorem lh (rd rs1 : RegNum) (imm : BitVec 12) : Statement (.lh rd rs1 imm) :=
  rowI _ _ _ _ _ _ (p := 0x00001003) (by decide)

theorem lw (rd rs1 : RegNum) (imm : BitVec 12) : Statement (.lw rd rs1 imm) :=
  rowI _ _ _ _ _ _ (p := 0x00002003) (by decide)

theorem lbu (rd rs1 : RegNum) (imm : BitVec 12) : Statement (.lbu rd rs1 imm) :=
  rowI _ _ _ _ _ _ (p := 0x00004003) (by decide)

theorem lhu (rd rs1 : RegNum) (imm : BitVec 12) : Statement (.lhu rd rs1 imm) :=
  rowI _ _ _ _ _ _ (p := 0x00005003) (by decide)

theorem sb (rs2 rs1 : RegNum) (imm : BitVec 12) : Statement (.sb rs2 rs1 imm) :=
  rowI _ _ _ _ _ _ (p := 0x00000023) (by decide)

theorem sh (rs2 rs1 : RegNum) (imm : BitVec 12) : Statement (.sh rs2 rs1 imm) :=
  rowI _ _ _ _ _ _ (p := 0x00001023) (by decide)

theorem sw (rs2 rs1 : RegNum) (imm : BitVec 12) : Statement (.sw rs2 rs1 imm) :=
  rowI _ _ _ _ _ _ (p := 0x00002023) (by decide)

theorem beq (rs1 rs2 : RegNum) (offset : BitVec 13) : Statement (.beq rs1 rs2 offset) :=
  rowI _ _ _ _ _ _ (p := 0x00000063) (by decide)

theorem bne (rs1 rs2 : RegNum) (offset : BitVec 13) : Statement (.bne rs1 rs2 offset) :=
  rowI _ _ _ _ _ _ (p := 0x00001063) (by decide)

theorem blt (rs1 rs2 : RegNum) (offset : BitVec 13) : Statement (.blt rs1 rs2 offset) :=
  rowI _ _ _ _ _ _ (p := 0x00004063) (by decide)

theorem bge (rs1 rs2 : RegNum) (offset : BitVec 13) : Statement (.bge rs1 rs2 offset) :=
  rowI _ _ _ _ _ _ (p := 0x00005063) (by decide)

theorem bltu (rs1 rs2 : RegNum) (offset : BitVec 13) : Statement (.bltu rs1 rs2 offset) :=
  rowI _ _ _ _ _ _ (p := 0x00006063) (by decide)

theorem bgeu (rs1 rs2 : RegNum) (offset : BitVec 13) : Statement (.bgeu rs1 rs2 offset) :=
  rowI _ _ _ _ _ _ (p := 0x00007063) (by decide)

theorem jal (rd : RegNum) (offset : BitVec 21) : Statement (.jal rd offset) :=
  rowU _ _ _ _ _ _ (p := 0x0000006F) (by decide)

theorem jalr (rd rs1 : RegNum) (imm : BitVec 12) : Statement (.jalr rd rs1 imm) :=
  rowI _ _ _ _ _ _ (p := 0x00000067) (by decide)

theorem lui (rd : RegNum) (imm20 : BitVec 20) : Statement (.lui rd imm20) :=
  rowU _ _ _ _ _ _ (p := 0x00000037) (by decide)

theorem auipc (rd : RegNum) (imm20 : BitVec 20) : Statement (.auipc rd imm20) :=
  rowU _ _ _ _ _ _ (p := 0x00000017) (by decide)

theorem mret : Statement .mret := by unfold Statement; decide

theorem wfi : Statement .wfi := by unfold Statement; decide

theorem csrrw (rd : RegNum) (csr : CsrAddr) (rs1 : RegNum) : Statement (.csrrw rd csr rs1) :=
  rowI _ _ _ _ _ _ (p := 0x00001073) (by decide)

theorem csrrs (rd : RegNum) (csr : CsrAddr) (rs1 : RegNum) : Statement (.csrrs rd csr rs1) :=
  rowI _ _ _ _ _ _ (p := 0x00002073) (by decide)

theorem csrrc (rd : RegNum) (csr : CsrAddr) (rs1 : RegNum) : Statement (.csrrc rd csr rs1) :=
  rowI _ _ _ _ _ _ (p := 0x00003073) (by decide)

theorem csrrwi (rd : RegNum) (csr : CsrAddr) (uimm : BitVec 5) : Statement (.csrrwi rd csr uimm) :=
  rowI _ _ _ _ _ _ (p := 0x00005073) (by decide)

theorem csrrsi (rd : RegNum) (csr : CsrAddr) (uimm : BitVec 5) : Statement (.csrrsi rd csr uimm) :=
  rowI _ _ _ _ _ _ (p := 0x00006073) (by decide)

theorem csrrci (rd : RegNum) (csr : CsrAddr) (uimm : BitVec 5) : Statement (.csrrci rd csr uimm) :=
  rowI _ _ _ _ _ _ (p := 0x00007073) (by decide)

theorem mul (rd rs1 rs2 : RegNum) : Statement (.mul rd rs1 rs2) :=
  rowR _ _ _ _ _ _ (p := 0x02000033) (by decide)

theorem mulhu (rd rs1 rs2 : RegNum) : Statement (.mulhu rd rs1 rs2) :=
  rowR _ _ _ _ _ _ (p := 0x02003033) (by decide)

theorem mulh (rd rs1 rs2 : RegNum) : Statement (.mulh rd rs1 rs2) :=
  rowR _ _ _ _ _ _ (p := 0x02001033) (by decide)

theorem mulhsu (rd rs1 rs2 : RegNum) : Statement (.mulhsu rd rs1 rs2) :=
  rowR _ _ _ _ _ _ (p := 0x02002033) (by decide)

theorem div (rd rs1 rs2 : RegNum) : Statement (.div rd rs1 rs2) :=
  rowR _ _ _ _ _ _ (p := 0x02004033) (by decide)

theorem divu (rd rs1 rs2 : RegNum) : Statement (.divu rd rs1 rs2) :=
  rowR _ _ _ _ _ _ (p := 0x02005033) (by decide)

theorem rem (rd rs1 rs2 : RegNum) : Statement (.rem rd rs1 rs2) :=
  rowR _ _ _ _ _ _ (p := 0x02006033) (by decide)

theorem remu (rd rs1 rs2 : RegNum) : Statement (.remu rd rs1 rs2) :=
  rowR _ _ _ _ _ _ (p := 0x02007033) (by decide)

theorem fence (fm pred succ : BitVec 4) (rs1 rd : RegNum) : Statement (.fence fm pred succ rs1 rd) :=
  rowI _ _ _ _ _ _ (p := 0x0000000F) (by decide)

theorem ecall : Statement .ecall := by unfold Statement; decide

theorem ebreak : Statement .ebreak := by unfold Statement; decide

end Laws.RowMatch

end Sys2Proof
end

