-- ==== Sys2Proof/Tests/Slice0.lean ====
section
/-! SUPPORT. The model's own tests: one ill-formed term for each check of WellFormed, one word of spec/ for each
constructor, at most two small steps for each instruction with the values of 95_test_vectors.md, and for every statement
with hypotheses a state and operands that meet them. -/

open Sys2Proof Sys2Proof.Machine

namespace Sys2Proof.Tests

/-! ### Helpers -/

/-- The start of the vectors of 95_test_vectors.md: reset, with the pc at 0x100. -/
def base : State := { State.reset with pc := 0x100 }

/-- `base` with some registers set. -/
def withRegs (l : List (RegNum × Word)) : State := l.foldl (fun s p => s.writeReg p.1 p.2) base

/-- The bytes of 95_test_vectors.md 2.3, placed at 0x1000. -/
def withData (s : State) : State :=
  ((s.placeWord 0x1000 0xF2347F80).placeWord 0x1004 0x12345678).placeWord 0x1008 0xFFFF8000

/-- The result of a step, where it goes on. -/
def nextOf (r : Result) : Option State :=
  match r with
  | .next t => some t
  | .fault _ | .refused _ => none

/-- The refusal of a step. -/
def refusalOf (r : Result) : Option Refusal :=
  match r with
  | .refused x => some x
  | .next _ | .fault _ => none

/-- The fault of a step. -/
def faultOf (r : Result) : Option Fault :=
  match r with
  | .fault x => some x
  | .next _ | .refused _ => none

/-- The state after a step, or the given one where it stops. -/
def after (r : Result) (d : State) : State := (nextOf r).getD d

/-- One step that runs the word. -/
def run (w : Nat) (s : State) : Result := step (s.withFetchWord 32 w)

/-- A register and the pc after one step that runs the word. -/
def regPc (r : RegNum) (w : Nat) (s : State) : Option (Word × Word) := (nextOf (run w s)).map fun t => (t.readReg r, t.pc)

/-- A control register, a general register and the pc after one step that runs the word. -/
def csrReg (a : CsrAddr) (r : RegNum) (w : Nat) (s : State) : Option (Word × Word) :=
  (nextOf (run w s)).map fun t => (t.csrRead a, t.readReg r)

/-- The word at 0x1004 and the pc after one step that runs the word. -/
def wordPc (w : Nat) (s : State) : Option (Word × Word) :=
  (nextOf (run w s)).map fun t => (t.readBytes 0x1004 .word, t.pc)

/-! ### WellFormed: the smoke test -/

theorem test_wf_rve_rd : Instr.wf true true (.add 16 1 2) = false := by decide
theorem test_wf_rve_rs1 : Instr.wf true true (.csrrw 0 0x340 17) = false := by decide
theorem test_wf_rve_rs2 : Instr.wf true true (.sw 31 1 0) = false := by decide
theorem test_wf_rve_fifteen : Instr.wf true true (.add 15 15 15) = true := by decide
theorem test_wf_rve_immediate_is_no_register : Instr.wf true true (.csrrwi 0 0x347 17) = true := by decide
theorem test_wf_m_absent : Instr.wf false false (.mul 3 1 2) = false := by decide
theorem test_wf_m_present : Instr.wf false true (.mul 3 1 2) = true := by decide
theorem test_wf_odd_branch : Instr.wf false true (.beq 1 2 7) = false := by decide
theorem test_wf_odd_jump : Instr.wf false true (.jal 1 0x1FFFFF) = false := by decide
theorem test_wf_default_config : Config.default.wf = true := by decide

/-! ### Decode: a word for every constructor, its fields as 30_encoding.md R131 and R133 print them -/

theorem test_decode_add : decodeTableWord 32 0b0000000_00010_00001_000_00011_0110011 = some (.add 3 1 2) := by decide
theorem test_decode_sub : decodeTableWord 32 0b0100000_00010_00001_000_00011_0110011 = some (.sub 3 1 2) := by decide
theorem test_decode_xor : decodeTableWord 32 0b0000000_00010_00001_100_00011_0110011 = some (.xor 3 1 2) := by decide
theorem test_decode_or : decodeTableWord 32 0b0000000_00010_00001_110_00011_0110011 = some (.or 3 1 2) := by decide
theorem test_decode_and : decodeTableWord 32 0b0000000_00010_00001_111_00011_0110011 = some (.and 3 1 2) := by decide
theorem test_decode_sll : decodeTableWord 32 0b0000000_00010_00001_001_00011_0110011 = some (.sll 3 1 2) := by decide
theorem test_decode_srl : decodeTableWord 32 0b0000000_00010_00001_101_00011_0110011 = some (.srl 3 1 2) := by decide
theorem test_decode_sra : decodeTableWord 32 0b0100000_00010_00001_101_00011_0110011 = some (.sra 3 1 2) := by decide
theorem test_decode_slt : decodeTableWord 32 0b0000000_00010_00001_010_00011_0110011 = some (.slt 3 1 2) := by decide
theorem test_decode_sltu : decodeTableWord 32 0b0000000_00010_00001_011_00011_0110011 = some (.sltu 3 1 2) := by decide
theorem test_decode_addi : decodeTableWord 32 0b100000000000_00001_000_00011_0010011 = some (.addi 3 1 0x800) := by decide
theorem test_decode_xori : decodeTableWord 32 0b011111111111_00001_100_00011_0010011 = some (.xori 3 1 0x7FF) := by decide
theorem test_decode_ori : decodeTableWord 32 0b100000000000_00001_110_00011_0010011 = some (.ori 3 1 0x800) := by decide
theorem test_decode_andi : decodeTableWord 32 0b111111110000_00001_111_00011_0010011 = some (.andi 3 1 0xFF0) := by decide
theorem test_decode_slli : decodeTableWord 32 0b0000000_11111_00001_001_00011_0010011 = some (.slli 3 1 31) := by decide
theorem test_decode_srli : decodeTableWord 32 0b0000000_11111_00001_101_00011_0010011 = some (.srli 3 1 31) := by decide
theorem test_decode_srai : decodeTableWord 32 0b0100000_00001_00001_101_00011_0010011 = some (.srai 3 1 1) := by decide
theorem test_decode_slti : decodeTableWord 32 0b011111111111_00001_010_00011_0010011 = some (.slti 3 1 0x7FF) := by decide
theorem test_decode_sltiu : decodeTableWord 32 0b100000000000_00001_011_00011_0010011 = some (.sltiu 3 1 0x800) := by decide
theorem test_decode_lb : decodeTableWord 32 0b111111111111_00001_000_00011_0000011 = some (.lb 3 1 0xFFF) := by decide
theorem test_decode_lh : decodeTableWord 32 0b000000000010_00001_001_00011_0000011 = some (.lh 3 1 2) := by decide
theorem test_decode_lw : decodeTableWord 32 0b011111111111_00001_010_00011_0000011 = some (.lw 3 1 0x7FF) := by decide
theorem test_decode_lbu : decodeTableWord 32 0b000000000011_00001_100_00011_0000011 = some (.lbu 3 1 3) := by decide
theorem test_decode_lhu : decodeTableWord 32 0b000000001010_00001_101_00011_0000011 = some (.lhu 3 1 10) := by decide
theorem test_decode_sb : decodeTableWord 32 0b0000000_00010_00001_000_00011_0100011 = some (.sb 2 1 3) := by decide
theorem test_decode_sh : decodeTableWord 32 0b1111111_00010_00001_001_11110_0100011 = some (.sh 2 1 0xFFE) := by decide
theorem test_decode_sw : decodeTableWord 32 0b1000000_00010_00001_010_00000_0100011 = some (.sw 2 1 0x800) := by decide
theorem test_decode_beq : decodeTableWord 32 0b0111111_00000_00000_000_11111_1100011 = some (.beq 0 0 0xFFE) := by decide
theorem test_decode_bne : decodeTableWord 32 0b1111111_00010_00001_001_11101_1100011 = some (.bne 1 2 0x1FFC) := by decide
theorem test_decode_blt : decodeTableWord 32 0b0000000_00010_00001_100_01000_1100011 = some (.blt 1 2 8) := by decide
theorem test_decode_bge : decodeTableWord 32 0b0000000_00010_00001_101_01000_1100011 = some (.bge 1 2 8) := by decide
theorem test_decode_bltu : decodeTableWord 32 0b0000000_00010_00001_110_01000_1100011 = some (.bltu 1 2 8) := by decide
theorem test_decode_bgeu : decodeTableWord 32 0b1000000_00010_00001_111_00000_1100011 = some (.bgeu 1 2 0x1000) := by decide
theorem test_decode_jal : decodeTableWord 32 0b01111111110000000000_00101_1101111 = some (.jal 5 0x7FC) := by decide
theorem test_decode_jalr : decodeTableWord 32 0b111111111100_00101_000_00001_1100111 = some (.jalr 1 5 0xFFC) := by decide
theorem test_decode_lui : decodeTableWord 32 0b00010010001101000101_00011_0110111 = some (.lui 3 0x12345) := by decide
theorem test_decode_auipc : decodeTableWord 32 0b11111111111111111111_00011_0010111 = some (.auipc 3 0xFFFFF) := by decide
theorem test_decode_mret : decodeTableWord 32 0b001100000010_00000_000_00000_1110011 = some .mret := by decide
theorem test_decode_wfi : decodeTableWord 32 0b000100000101_00000_000_00000_1110011 = some .wfi := by decide
theorem test_decode_csrrw : decodeTableWord 32 0b001101000000_00110_001_00101_1110011 = some (.csrrw 5 0x340 6) := by decide
theorem test_decode_csrrs : decodeTableWord 32 0b001100000100_00110_010_00101_1110011 = some (.csrrs 5 0x304 6) := by decide
theorem test_decode_csrrc : decodeTableWord 32 0b001100000000_00110_011_00101_1110011 = some (.csrrc 5 0x300 6) := by decide
theorem test_decode_csrrwi : decodeTableWord 32 0b101110001000_11111_101_00101_1110011 = some (.csrrwi 5 0xB88 31) := by decide
theorem test_decode_csrrsi : decodeTableWord 32 0b001100000000_11111_110_00101_1110011 = some (.csrrsi 5 0x300 31) := by decide
theorem test_decode_csrrci : decodeTableWord 32 0b001100000000_01000_111_00101_1110011 = some (.csrrci 5 0x300 8) := by decide
theorem test_decode_mul : decodeTableWord 32 0b0000001_00010_00001_000_00011_0110011 = some (.mul 3 1 2) := by decide
theorem test_decode_mulhu : decodeTableWord 32 0b0000001_00010_00001_011_00011_0110011 = some (.mulhu 3 1 2) := by decide
theorem test_decode_mulh : decodeTableWord 32 0b0000001_00010_00001_001_00011_0110011 = some (.mulh 3 1 2) := by decide
theorem test_decode_mulhsu : decodeTableWord 32 0b0000001_00010_00001_010_00011_0110011 = some (.mulhsu 3 1 2) := by decide
theorem test_decode_div : decodeTableWord 32 0b0000001_00010_00001_100_00011_0110011 = some (.div 3 1 2) := by decide
theorem test_decode_divu : decodeTableWord 32 0b0000001_00010_00001_101_00011_0110011 = some (.divu 3 1 2) := by decide
theorem test_decode_rem : decodeTableWord 32 0b0000001_00010_00001_110_00011_0110011 = some (.rem 3 1 2) := by decide
theorem test_decode_remu : decodeTableWord 32 0b0000001_00010_00001_111_00011_0110011 = some (.remu 3 1 2) := by decide
theorem test_decode_fence :
    decodeTableWord 32 0b0000_1111_0011_00001_000_00010_0001111 = some (.fence 0 15 3 1 2) := by decide
theorem test_decode_ecall : decodeTableWord 32 0b000000000000_00000_000_00000_1110011 = some .ecall := by decide
theorem test_decode_ebreak : decodeTableWord 32 0b000000000001_00000_000_00000_1110011 = some .ebreak := by decide
theorem test_decode_jal_backward : decodeTableWord 32 0xFF9FF06F = some (.jal 0 0x1FFFF8) := by decide

/-! ### Decode: words that are refused (95_test_vectors.md 2.2, 2.10) -/

theorem test_decode_refuses_slli_bit25 : decodeTableWord 32 0x02009193 = none := by decide
theorem test_decode_refuses_slli_bit30 : decodeTableWord 32 0x40009193 = none := by decide
theorem test_decode_refuses_fence_i : decodeTableWord 32 0x0000100F = none := by decide
theorem test_decode_refuses_ones : decodeTableWord 32 0xFFFFFFFF = none := by decide
theorem test_decode_refuses_compressed : decodeTableWord 32 0x00000001 = none := by decide
theorem test_decode_refuses_rv64_load : decodeTableWord 32 0x0000B003 = none := by decide
theorem test_decode_refuses_mret_with_rd : decodeTableWord 32 0x30200173 = none := by decide
theorem test_decode_refuses_sret : decodeTableWord 32 0x10200073 = none := by decide
theorem test_decode_short : decodeBytes false true [0x33, 0x81, 0x20] = .error .truncated := by decide
theorem test_decode_rve : decode true true 0x01F081B3 = .error .rveRegisterOutOfRange := by decide
theorem test_decode_rve_shift_amount : decode true true 0x01F09193 = .ok (.slli 3 1 31) := by decide
theorem test_decode_m_absent : decode false false 0x022081B3 = .error .unlistedEncoding := by decide

/-! ### One step of each instruction: the result register and the pc (95_test_vectors.md 2.1, 2.2, 2.6, 2.7) -/

theorem test_add_wraps : regPc 3 0x002081B3 (withRegs [(1, 0xFFFFFFFF), (2, 1)]) = some (0, 0x104) := by decide
theorem test_add_same : regPc 1 0x001080B3 (withRegs [(1, 0x80000001)]) = some (2, 0x104) := by decide
theorem test_sub_borrows : regPc 3 0x402081B3 (withRegs [(1, 0), (2, 1)]) = some (0xFFFFFFFF, 0x104) := by decide
theorem test_sub_negates : regPc 3 0x401001B3 (withRegs [(1, 0x80000000)]) = some (0x80000000, 0x104) := by decide
theorem test_xor : regPc 3 0x0020C1B3 (withRegs [(1, 0xAAAAAAAA), (2, 0xFFFFFFFF)]) = some (0x55555555, 0x104) := by decide
theorem test_or : regPc 3 0x0020E1B3 (withRegs [(1, 0xF0F0F0F0), (2, 0x0F0F0F0F)]) = some (0xFFFFFFFF, 0x104) := by decide
theorem test_and : regPc 3 0x0020F1B3 (withRegs [(1, 0xFF00FF00), (2, 0x0FF00FF0)]) = some (0x0F000F00, 0x104) := by decide
theorem test_sll_by_32 : regPc 3 0x002091B3 (withRegs [(1, 1), (2, 0x20)]) = some (1, 0x104) := by decide
theorem test_sll_by_31 : regPc 3 0x002091B3 (withRegs [(1, 3), (2, 0xFFFFFFFF)]) = some (0x80000000, 0x104) := by decide
theorem test_srl_by_32 : regPc 3 0x0020D1B3 (withRegs [(1, 0x80000000), (2, 0x20)]) = some (0x80000000, 0x104) := by decide
theorem test_srl_by_33 : regPc 3 0x0020D1B3 (withRegs [(1, 0xFFFFFFFF), (2, 0x21)]) = some (0x7FFFFFFF, 0x104) := by decide
theorem test_sra_negative : regPc 3 0x4020D1B3 (withRegs [(1, 0x80000000), (2, 0x1F)]) = some (0xFFFFFFFF, 0x104) := by decide
theorem test_sra_positive : regPc 3 0x4020D1B3 (withRegs [(1, 0x7FFFFFFF), (2, 0x1F)]) = some (0, 0x104) := by decide
theorem test_slt_signs : regPc 3 0x0020A1B3 (withRegs [(1, 0x80000000), (2, 0x7FFFFFFF)]) = some (1, 0x104) := by decide
theorem test_slt_equal : regPc 3 0x0020A1B3 (withRegs [(1, 5), (2, 5)]) = some (0, 0x104) := by decide
theorem test_sltu_signs : regPc 3 0x0020B1B3 (withRegs [(1, 0x80000000), (2, 0x7FFFFFFF)]) = some (0, 0x104) := by decide
theorem test_sltu_nonzero : regPc 3 0x001031B3 (withRegs [(1, 9)]) = some (1, 0x104) := by decide
theorem test_addi_most_negative : regPc 3 0x80008193 (withRegs [(1, 0x800)]) = some (0, 0x104) := by decide
theorem test_addi_nop : regPc 0 0x00000013 base = some (0, 0x104) := by decide
theorem test_xori_sign : regPc 3 0xFFF0C193 (withRegs [(1, 0)]) = some (0xFFFFFFFF, 0x104) := by decide
theorem test_xori_positive : regPc 3 0x7FF0C193 (withRegs [(1, 0xFFFFFFFF)]) = some (0xFFFFF800, 0x104) := by decide
theorem test_ori_sign : regPc 3 0x8000E193 (withRegs [(1, 1)]) = some (0xFFFFF801, 0x104) := by decide
theorem test_andi_sign : regPc 3 0xFF00F193 (withRegs [(1, 0x12345678)]) = some (0x12345670, 0x104) := by decide
theorem test_slli_31 : regPc 3 0x01F09193 (withRegs [(1, 0xFFFFFFFF)]) = some (0x80000000, 0x104) := by decide
theorem test_srli_31 : regPc 3 0x01F0D193 (withRegs [(1, 0x80000000)]) = some (1, 0x104) := by decide
theorem test_srai_31 : regPc 3 0x41F0D193 (withRegs [(1, 0x80000000)]) = some (0xFFFFFFFF, 0x104) := by decide
theorem test_srai_1 : regPc 3 0x4010D193 (withRegs [(1, 0xFFFFFFFD)]) = some (0xFFFFFFFE, 0x104) := by decide
theorem test_slti_sign : regPc 3 0x8000A193 (withRegs [(1, 0x80000000)]) = some (1, 0x104) := by decide
theorem test_slti_equal : regPc 3 0x0050A193 (withRegs [(1, 5)]) = some (0, 0x104) := by decide
theorem test_sltiu_sign : regPc 3 0x8000B193 (withRegs [(1, 0xFFFFF7FF)]) = some (1, 0x104) := by decide
theorem test_sltiu_ones : regPc 3 0xFFF0B193 (withRegs [(1, 0xFFFFFFFF)]) = some (0, 0x104) := by decide
theorem test_lui : regPc 3 0x123451B7 base = some (0x12345000, 0x104) := by decide
theorem test_lui_zero : regPc 3 0x000001B7 (withRegs [(3, 0x55)]) = some (0, 0x104) := by decide
theorem test_auipc_wraps : regPc 3 0xFFFFF197 base = some (0xFFFFF100, 0x104) := by decide
theorem test_auipc_zero : regPc 3 0x00000197 base = some (0x100, 0x104) := by decide
theorem test_mul : regPc 3 0x022081B3 (withRegs [(1, 0x12345678), (2, 0x9ABCDEF0)]) = some (0x242D2080, 0x104) := by decide
theorem test_mulhu : regPc 3 0x0220B1B3 (withRegs [(1, 0xFFFFFFFF), (2, 0xFFFFFFFF)]) = some (0xFFFFFFFE, 0x104) := by decide
theorem test_mulh : regPc 3 0x022091B3 (withRegs [(1, 0x12345678), (2, 0x9ABCDEF0)]) = some (0xF8CC93D6, 0x104) := by decide
theorem test_mulhsu_left_signed : regPc 3 0x0220A1B3 (withRegs [(1, 0x12345678), (2, 0x9ABCDEF0)]) = some (0x0B00EA4E, 0x104) := by decide
theorem test_mulhsu_right_unsigned : regPc 3 0x0220A1B3 (withRegs [(1, 0x80000000), (2, 0xFFFFFFFF)]) = some (0x80000000, 0x104) := by decide
theorem test_div_toward_zero : regPc 3 0x0220C1B3 (withRegs [(1, 0xFFFFFFF9), (2, 2)]) = some (0xFFFFFFFD, 0x104) := by decide
theorem test_div_overflow : regPc 3 0x0220C1B3 (withRegs [(1, 0x80000000), (2, 0xFFFFFFFF)]) = some (0x80000000, 0x104) := by decide
theorem test_divu : regPc 3 0x0220D1B3 (withRegs [(1, 0xFFFFFFF9), (2, 2)]) = some (0x7FFFFFFC, 0x104) := by decide
theorem test_divu_by_zero : regPc 3 0x0220D1B3 (withRegs [(1, 0x1234), (2, 0)]) = some (0xFFFFFFFF, 0x104) := by decide
theorem test_rem_sign : regPc 3 0x0220E1B3 (withRegs [(1, 7), (2, 0xFFFFFFFE)]) = some (1, 0x104) := by decide
theorem test_rem_by_zero : regPc 3 0x0220E1B3 (withRegs [(1, 0x80000000), (2, 0)]) = some (0x80000000, 0x104) := by decide
theorem test_remu : regPc 3 0x0220F1B3 (withRegs [(1, 0x80000000), (2, 0xFFFFFFFF)]) = some (0x80000000, 0x104) := by decide
theorem test_remu_by_zero : regPc 3 0x0220F1B3 (withRegs [(1, 0x1234), (2, 0)]) = some (0x1234, 0x104) := by decide

/-! ### Loads and stores (95_test_vectors.md 2.3, 2.4) -/

theorem test_lb_negative_offset : regPc 3 0xFFF08183 (withData (withRegs [(1, 0x1004)])) = some (0xFFFFFFF2, 0x104) := by decide
theorem test_lbu : regPc 3 0x0030C183 (withData (withRegs [(1, 0x1000)])) = some (0xF2, 0x104) := by decide
theorem test_lh_sign : regPc 3 0x00209183 (withData (withRegs [(1, 0x1000)])) = some (0xFFFFF234, 0x104) := by decide
theorem test_lhu : regPc 3 0x0020D183 (withData (withRegs [(1, 0x1000)])) = some (0xF234, 0x104) := by decide
theorem test_lw : regPc 3 0x7FF0A183 (withData (withRegs [(1, 0x805)])) = some (0x12345678, 0x104) := by decide
theorem test_lw_to_x0 : regPc 0 0x0040A003 (withData (withRegs [(1, 0x1000)])) = some (0, 0x104) := by decide
theorem test_sb : wordPc 0x002081A3 (withData (withRegs [(1, 0x1004), (2, 0xAABBCCDD)])) = some (0xDD345678, 0x104) := by decide
theorem test_sh : wordPc 0x00209123 (withData (withRegs [(1, 0x1004), (2, 0xAABBCCDD)])) = some (0xCCDD5678, 0x104) := by decide
theorem test_sh_negative_offset : wordPc 0xFE209F23 (withData (withRegs [(1, 0x1008), (2, 1)])) = some (0x00015678, 0x104) := by decide
theorem test_sw : wordPc 0x8020A023 (withData (withRegs [(1, 0x1804), (2, 0xAABBCCDD)])) = some (0xAABBCCDD, 0x104) := by decide
theorem test_lw_misaligned :
    refusalOf (run 0x0020A183 (withRegs [(1, 0x1000)])) = some .misalignedDataAccess := by decide
theorem test_sw_unmapped :
    faultOf (run 0x0020A023 (withRegs [(1, 0x2000), (2, 1)])) = some (.unmappedAddress 0x2000) := by decide
theorem test_store_keeps_memory_form :
    Memory.wf (after (run 0x0020A023 (withData (withRegs [(1, 0x1004)]))) base).mem := by
  unfold Memory.wf; decide

/-! ### Branches and jumps (95_test_vectors.md 2.5, 2.6) -/

theorem test_beq_forward : regPc 0 0x7E000FE3 base = some (0, 0x10FE) := by decide
theorem test_beq_not_taken : regPc 0 0x00208463 (withRegs [(1, 5), (2, 6)]) = some (0, 0x104) := by decide
theorem test_bne_backward : regPc 0 0xFE209EE3 (withRegs [(1, 1), (2, 0)]) = some (0, 0xFC) := by decide
theorem test_bne_not_taken : regPc 0 0x7E109F63 (withRegs [(1, 1)]) = some (0, 0x104) := by decide
theorem test_blt_signs : regPc 0 0x0020C463 (withRegs [(1, 0x80000000), (2, 0)]) = some (0, 0x108) := by decide
theorem test_blt_equal : regPc 0 0x0020C463 (withRegs [(1, 3), (2, 3)]) = some (0, 0x104) := by decide
theorem test_bge_equal : regPc 0 0x0020D463 (withRegs [(1, 3), (2, 3)]) = some (0, 0x108) := by decide
theorem test_bge_signs : regPc 0 0x0020D463 (withRegs [(1, 0x80000000), (2, 0)]) = some (0, 0x104) := by decide
theorem test_bltu_signs : regPc 0 0x0020E463 (withRegs [(1, 0), (2, 0x80000000)]) = some (0, 0x108) := by decide
theorem test_bltu_not_taken : regPc 0 0x0020E463 (withRegs [(1, 0x80000000), (2, 0)]) = some (0, 0x104) := by decide
theorem test_bgeu_equal : regPc 0 0x0000F463 (withRegs [(1, 0)]) = some (0, 0x108) := by decide
theorem test_bgeu_not_taken : regPc 0 0x0020F463 (withRegs [(1, 1), (2, 2)]) = some (0, 0x104) := by decide
theorem test_beq_wraps : regPc 0 0xFE000CE3 { base with pc := 4 } = some (0, 0xFFFFFFFC) := by decide
theorem test_jal_backward : regPc 1 0xF01FF0EF base = some (0x104, 0) := by decide
theorem test_jal_forward : regPc 5 0x7FC002EF base = some (0x104, 0x8FC) := by decide
theorem test_jalr_same_register : regPc 5 0x000282E7 (withRegs [(5, 0x300)]) = some (0x104, 0x300) := by decide
theorem test_jalr_negative : regPc 1 0x800000E7 base = some (0x104, 0xFFFFF800) := by decide
theorem test_jalr_odd : refusalOf (run 0x00008067 (withRegs [(1, 5)])) = some .jalrOddTarget := by decide

/-! ### Control registers (95_test_vectors.md 2.8) -/

theorem test_csrrw_swap : csrReg 0x340 5 0x340292F3
    { withRegs [(5, 0xAAAA5555)] with csrs := { Csrs.reset with mscratch := 0x12345678 } } =
    some (0xAAAA5555, 0x12345678) := by decide
theorem test_csrrw_mtvec : csrReg 0x305 5 0x305312F3 (withRegs [(6, 0xFFFFFFFF)]) = some (0xFFFFFFFD, 1) := by decide
theorem test_csrrs_mstatus : csrReg 0x300 5 0x300322F3 (withRegs [(6, 0x1888)]) = some (0x88, 0) := by decide
theorem test_csrrs_mip_reads : csrReg 0x344 5 0x344022F3
    { base with csrs := { Csrs.reset with msipPending := true, mtime := 5, mtimecmp := 5 }, extPending := some 3 } =
    some (0x888, 0x888) := by decide
theorem test_csrrc_mstatus : csrReg 0x300 5 0x300332F3
    { withRegs [(6, 8)] with csrs := { Csrs.reset with mie := true, mpie := true } } = some (0x80, 0x88) := by decide
theorem test_csrrc_mie : csrReg 0x304 0 0x30433073
    { withRegs [(6, 0x80)] with csrs := { Csrs.reset with msie := true, mtie := true, meie := true } } =
    some (0x808, 0) := by decide
theorem test_csrrwi_msip : csrReg 0x344 0 0x3450D073 base = some (8, 0) := by decide
theorem test_csrrwi_mcctr : csrReg 0xB88 0 0xB8835073 base = some (6, 0) := by decide
theorem test_csrrsi_mstatus : csrReg 0x300 5 0x300FE2F3 base = some (8, 0) := by decide
theorem test_csrrsi_mip_writes_nothing : csrReg 0x344 5 0x344062F3
    { base with csrs := { Csrs.reset with msipPending := true } } = some (8, 8) := by decide
theorem test_csrrci_mstatus : csrReg 0x300 5 0x300472F3
    { base with csrs := { Csrs.reset with mie := true } } = some (0, 8) := by decide
theorem test_csrrs_mip_refused : refusalOf (run 0x344322F3 base) = some .writeToMip := by decide
theorem test_csr_unimplemented : refusalOf (run 0x7C001073 base) = some .unimplementedCsr := by decide
theorem test_csr_set_on_write_only : refusalOf (run 0x3450E073 base) = some .setClearOnWriteOnlyCsr := by decide
theorem test_msip_value : refusalOf (run 0x34515073 base) = some .msipValue := by decide
theorem test_mprints_value : refusalOf (run 0x34631073 (withRegs [(6, 0x141)])) = some .mprintsValue := by decide
theorem test_mends_value : refusalOf (run 0x34705073 base) = some .mendsValue := by decide
theorem test_mprints_prints : (nextOf (run 0x34631073 (withRegs [(6, 0x41)]))).map (·.simOutput) = some [0x41] := by
  decide
theorem test_mimpid : csrReg 0xF13 5 0xF13022F3 { base with config := { Config.default with mimpid := 7 } } =
    some (7, 7) := by decide
theorem test_minstret_carries : (nextOf (run 0x00000013
    { base with csrs := { Csrs.reset with mcctr := 2, minstret := 0xFFFFFFFF } })).map (·.csrs.minstret) =
    some 0x100000000 := by decide
theorem test_minstret_write_not_counted : (nextOf (run 0xB0231073
    { withRegs [(6, 0x64)] with csrs := { Csrs.reset with mcctr := 2, minstret := 41 } })).map (·.csrs.minstret) =
    some 100 := by decide
theorem test_minstret_enable_read_before : (nextOf (run 0xB8805073
    { base with csrs := { Csrs.reset with mcctr := 2, minstret := 7 } })).map (·.csrs.minstret) = some 8 := by decide

/-! ### Traps, return and sleep (95_test_vectors.md 2.9) -/

/-- The control registers of a hart that takes software interrupts, one being requested. -/
def softwareCsrs : Csrs := { Csrs.reset with mie := true, msie := true, msipPending := true }

theorem test_software_trap : (nextOf (step { base with pc := 0x64, csrs := softwareCsrs })).map
    (fun t => (t.pc, t.csrs.mepc, t.csrs.mcause, t.csrRead 0x300)) = some (8, 0x64, 0x80000002, 0x80) := by decide
theorem test_timer_trap : (nextOf (step { base with
      pc := 0x70, csrs := { Csrs.reset with mie := true, mtie := true, mtime := 100, mtimecmp := 100, mtvecBase := 0x200 } })).map
    (fun t => (t.pc, t.csrs.mepc, t.csrs.mcause)) = some (0x80C, 0x70, 0x80000003) := by decide
theorem test_external_trap : (nextOf (step { base with
      pc := 0x64, csrs := { Csrs.reset with mie := true, meie := true }, extPending := some 15 })).map
    (fun t => (t.pc, t.csrs.mcause, t.extPending, t.extInService)) = some (0x4C, 0x80000013, none, some 15) := by decide
theorem test_trap_base_wraps : (nextOf (step { base with
      csrs := { Csrs.reset with mie := true, mtie := true, mtimecmp := 0, mtvecBase := 0x3FFFFFFF } })).map (·.pc) =
    some 8 := by decide
theorem test_masked_interrupt_waits : regPc 0 0x00000013
    { base with csrs := { softwareCsrs with msie := false } } = some (0, 0x104) := by decide
theorem test_nested_refused : refusalOf (step { base with csrs := softwareCsrs, trapDepth := 1 }) = some .nestedInterrupt := by
  decide
theorem test_mret : (nextOf (run 0x30200073 { base with
      csrs := { Csrs.reset with mpie := true, mepc := 0x64 }, trapDepth := 1, extInService := some 3 })).map
    (fun t => (t.pc, t.csrRead 0x300, t.trapDepth, t.plicSignals)) = some (0x64, 8, 0, [.completed 3]) := by decide
theorem test_mret_after_reset : (nextOf (run 0x30200073 base)).map
    (fun t => (t.pc, t.csrRead 0x300, t.trapDepth)) = some (0, 0, 0) := by decide
theorem test_wfi : (nextOf (run 0x10500073 { base with pc := 0x200 })).map (fun t => (t.pc, t.asleep)) =
    some (0x204, true) := by decide
theorem test_fence_refused : refusalOf (run 0x0000000F base) = some (.unlistedEncoding 0x0000000F 0x100) := by decide
theorem test_ecall_refused : refusalOf (run 0x00000073 base) = some (.unlistedEncoding 0x00000073 0x100) := by decide
theorem test_ebreak_traps : (nextOf (run 0x00100073
    { base with config := { Config.default with unlistedPolicy := .trapCode1 } })).map
    (fun t => (t.pc, t.csrs.mcause, t.csrs.mepc)) = some (4, 1, 0x100) := by decide
theorem test_pc_misaligned : refusalOf (step { base with pc := 0x10FE }) = some .misalignedPc := by decide
theorem test_reset_memory_form : Memory.wf State.reset.mem := by unfold Memory.wf; decide
theorem test_reset_plic : State.reset.extRequest = none ∧ State.reset.plicSignals = [] := ⟨rfl, rfl⟩
theorem test_reset_runs_first : (nextOf (step (State.reset.withFetchWord 32 0x123451B7))).map (·.readReg 3) =
    some 0x12345000 := by decide

/-! ### Witnesses: for every statement with hypotheses, a state and operands that meet them together -/

/-- `base` with a word to run. -/
def ready (w : Nat) : State := base.withFetchWord 32 w

/-- `base` with one input waiting. -/
def withInput (i : Input) : State := { base with inputs := [i] }

/-- `base` under another configuration. -/
def withConfig (c : Config) : State := { base with config := c }

/-- The default configuration with a device at 0x2000 and, at 0x3000, a range that answers every access with an error. -/
def deviceConfig : Config :=
  { Config.default with memoryMap := Config.default.memoryMap ++
      [ { base := 0x2000, size := 0x1000, kind := .device, readable := true, writable := true, answersError := false },
        { base := 0x3000, size := 4, kind := .device, readable := true, writable := true, answersError := true } ] }

/-- A hart whose software and timer interrupts are both takeable. -/
def twoTakeable : State :=
  { base with csrs := { softwareCsrs with mtie := true, mtimecmp := 0 } }

-- DecodeOfEncode, EncodeOfDecode
theorem test_witness_wf_high_register : Instr.wf false true (.remu 31 31 31) = true := by decide
theorem test_witness_wf_offsets : Instr.wf true false (.jal 15 0x1FFFFE) = true ∧ Instr.wf true false (.bgeu 15 15 0x1FFE) = true := by
  decide
theorem test_witness_decode_ok : decode true false 0xFE209EE3 = .ok (.bne 1 2 0x1FFC) := rfl
-- DecodeFollowsOpcodeTable: a row matched with and without usable registers, a word that matches no row
theorem test_witness_row_matched :
    (false || !(Instr.add 0 0 0).isM) = true ∧ 0x00208833#32 &&& (Instr.add 0 0 0).row.mask = (Instr.add 0 0 0).row.pattern := by
  decide
theorem test_witness_row_refused : decode true true 0x00208833 = .error .rveRegisterOutOfRange := rfl
theorem test_witness_no_row : ∀ i : Instr, (false || !i.isM) = true → 0x00000000#32 &&& i.row.mask ≠ i.row.pattern := by
  intro i; cases i <;> simp [Instr.row]
-- RveRefusesHighRegisters, MWordsNeedHasM
theorem test_witness_rve_high : decode false true 0x00078833 = .ok (.add 16 15 0) ∧ namesHighRegister 0x00078833 = true := ⟨rfl, rfl⟩
theorem test_witness_rve_low : decode false true 0x01F09193 = .ok (.slli 3 1 31) ∧ namesHighRegister 0x01F09193 = false := ⟨rfl, rfl⟩
theorem test_witness_m_word : 0x0220F1B3#32 &&& 0xFE00007F#32 = 0x02000033#32 := by decide
theorem test_witness_not_m_word : 0x4020D1B3#32 &&& 0xFE00007F#32 ≠ 0x02000033#32 := by decide
-- StepRunsDecodedInstruction, InstructionCounter
theorem test_witness_at_instruction : (ready 0x00208033).atInstruction ∧ (ready 0x00208033).afterEnvironment.fetches 0x00208033 ∧
    decode false true 0x00208033 = .ok (.add 0 1 2) ∧ isUnlisted (.add 0 1 2) = false ∧
    (nextOf (exec (.add 0 1 2) (ready 0x00208033).afterEnvironment)).isSome = true := by
  unfold State.atInstruction State.running State.fetches; exact ⟨by decide, by decide, rfl, rfl, rfl⟩
theorem test_witness_counter_frame : writesCsr (.csrrs 5 0xB02 0) (fun a => a == 0xB02#12 || a == 0xB82#12) = false ∧
    (nextOf (exec (.csrrs 5 0xB02 0) base)).isSome = true := ⟨rfl, rfl⟩
-- FetchRefusals: each clause, at the last word of the program memory and just past it
theorem test_witness_fetch_misaligned : { base with pc := 0xFFD }.atInstruction ∧ (0xFFD#32).toNat % 4 ≠ 0 := by
  unfold State.atInstruction State.running; decide
theorem test_witness_fetch_outside : { base with pc := 0x1000 }.atInstruction ∧ (0x1000#32).toNat % 4 = 0 ∧
    Config.inProgramMemory Config.default 0x1000 4 = false := by
  unfold State.atInstruction State.running; decide
theorem test_witness_fetch_stored : { base with pc := 0xFFC, storedCode := [0xFFF] }.atInstruction ∧
    Config.inProgramMemory Config.default 0xFFC 4 = true ∧ ∃ a ∈ [0xFFF], 0xFFC ≤ a ∧ a < 0xFFC + 4 := by
  unfold State.atInstruction State.running; decide
-- UndecodableWords
theorem test_witness_unlisted_refuse : (ready 0).atInstruction ∧ (ready 0).afterEnvironment.fetches 0 ∧
    (ready 0).config.unlistedPolicy = .refuse ∧ decode (ready 0).config.rve (ready 0).config.hasM 0 = .error .unlistedEncoding := by
  unfold State.atInstruction State.running State.fetches; exact ⟨by decide, by decide, rfl, rfl⟩
/-- A core without M whose unlisted words raise the exception, about to fetch a `mul`. -/
def trapping : State := (withConfig { Config.default with unlistedPolicy := .trapCode1, hasM := false }).withFetchWord 32 0x022081B3
theorem test_witness_unlisted_trap : trapping.atInstruction ∧ trapping.afterEnvironment.fetches 0x022081B3 ∧
    trapping.config.unlistedPolicy = .trapCode1 ∧
    decode trapping.config.rve trapping.config.hasM 0x022081B3 = .error .unlistedEncoding := by
  unfold State.atInstruction State.running State.fetches; exact ⟨by decide, by decide, rfl, rfl⟩
/-- A core with 16 registers, about to fetch an `add` of x16. -/
def embedded : State := (withConfig { Config.default with rve := true }).withFetchWord 32 0x00208833
theorem test_witness_rve_word : embedded.atInstruction ∧ embedded.afterEnvironment.fetches 0x00208833 ∧
    decode embedded.config.rve embedded.config.hasM 0x00208833 = .error .rveRegisterOutOfRange := by
  unfold State.atInstruction State.running State.fetches; exact ⟨by decide, by decide, rfl⟩
-- UnlistedInstructions: the two policies
theorem test_witness_policies : base.config.unlistedPolicy = .refuse ∧ trapping.config.unlistedPolicy = .trapCode1 := ⟨rfl, rfl⟩
-- HaltedHartRests
/-- The host holds the hart while a request waits. -/
def halted : State := { withInput { Input.quiet with halt := true, accept := true } with extRequest := some 15 }
theorem test_witness_halted : halted.simEnded = false ∧ halted.softResetReq = false ∧
    halted.environment.badExternalId = false ∧ halted.nextInput.halt = true := by decide
-- RunEnds
theorem test_witness_ended : { base with simEnded := true }.simEnded = true := rfl
theorem test_witness_soft_reset : { base with softResetReq := true }.simEnded = false ∧
    { base with softResetReq := true }.softResetReq = true := ⟨rfl, rfl⟩
theorem test_witness_bad_id_held : 16 ≤ (16#5).toNat ∧ { base with extRequest := some 16#5 }.extRequest = some 16#5 ∧
    base.simEnded = false ∧ base.softResetReq = false := by decide
theorem test_witness_bad_id_raised : base.extRequest = none ∧
    (withInput { Input.quiet with plicRaise := some 31#5 }).nextInput.plicRaise = some 31#5 := by decide
-- TakeableInterrupts, InterruptPriority, NestedInterruptRefused, CoreExceptionOutranks
theorem test_witness_interrupt : twoTakeable.running ∧ twoTakeable.nextInput.coreError = false ∧
    twoTakeable.afterEnvironment.takeable = [.software, .timer] ∧ twoTakeable.trapDepth = 0 := by
  unfold State.running; decide
theorem test_witness_one_interrupt : { base with csrs := softwareCsrs }.running ∧
    { base with csrs := softwareCsrs }.nextInput.coreError = false ∧
    { base with csrs := softwareCsrs }.afterEnvironment.takeable = [.software] := by
  unfold State.running; decide
/-- The interrupts of `twoTakeable` where IRQ_PRIORITY names the external kind, which is not takeable, before the timer. -/
def prioritised : State := { twoTakeable with config := { Config.default with irqPriority := [.external, .timer, .software] } }
theorem test_witness_priority : prioritised.running ∧ prioritised.nextInput.coreError = false ∧ prioritised.trapDepth = 0 ∧
    TrapCause.timer ∈ prioritised.afterEnvironment.takeable ∧ trapKind .timer = some .timer ∧
    prioritised.config.irqPriority = [.external] ++ .timer :: [.software] ∧
    ∀ d ∈ prioritised.afterEnvironment.takeable, ∀ j ∈ [IrqKind.external], trapKind d ≠ some j := by
  unfold State.running; decide
theorem test_priority_skips_untakeable : (nextOf (step prioritised)).map (·.csrs.mcause) = some 0x80000003 := by decide
theorem test_witness_nested : { twoTakeable with trapDepth := 1 }.running ∧
    { twoTakeable with trapDepth := 1 }.nextInput.coreError = false ∧
    { twoTakeable with trapDepth := 1 }.afterEnvironment.takeable ≠ [] ∧ 0 < { twoTakeable with trapDepth := 1 }.trapDepth := by
  unfold State.running; decide
theorem test_witness_core_error : (withInput { Input.quiet with coreError := true }).running ∧
    (withInput { Input.quiet with coreError := true }).nextInput.coreError = true := by
  unfold State.running; decide
-- ExternalRequestAccepted: held and raised, accepted and not, and no request at all
theorem test_witness_accept_raised :
    let s := withInput { Input.quiet with plicRaise := some 15#5, accept := true }
    (15#5).toNat < 16 ∧ s.extRequest = none ∧ s.nextInput.plicRaise = some 15#5 ∧ s.nextInput.accept = true ∧
      s.extPending = none := by decide
theorem test_witness_accept_held : halted.extRequest = some 15#5 ∧ halted.nextInput.accept = true ∧ halted.extPending = none := by
  decide
theorem test_witness_not_accepted :
    let s := { base with extRequest := some 0#5, extPending := some 3#5 }
    (0#5).toNat < 16 ∧ s.extRequest = some 0#5 ∧ (s.nextInput.accept = false ∨ s.extPending ≠ none) := by decide
theorem test_witness_no_request :
    let s := withInput { Input.quiet with accept := true }
    s.extRequest = none ∧ s.nextInput.plicRaise = none ∧ s.nextInput.accept = true := by decide
-- TrapEntry, TrapVectorTable
theorem test_witness_cause : TrapCause.external 15 ≠ .coreException := by decide
theorem test_witness_vector_base : base.csrs.mtvecBase = 0#30 := rfl
theorem test_witness_vector_row : (TrapCause.external 15, 0x80000013#32, 0x4C) ∈
    [(TrapCause.coreException, 0x00000001#32, 0x04), (.external 15, 0x80000013#32, 0x4C)] := by decide
-- MretUndoesTrapEntry: the exception inside a handler, then two returns
theorem test_witness_two_returns :
    let s := { base with trapDepth := 1 }
    let t := after (exec .mret (s.takeTrap .coreException)) base
    s.csrs.mie = false ∧ exec .mret (s.takeTrap .coreException) = .next t ∧ exec .mret t = .next (after (exec .mret t) base) :=
  ⟨rfl, rfl, rfl⟩
-- WfiSleepsUntilTakeable: asleep with nothing to wake it, and woken
theorem test_witness_asleep : { base with asleep := true }.running ∧ { base with asleep := true }.nextInput.coreError = false ∧
    { base with asleep := true }.afterEnvironment.takeable = [] := by
  unfold State.running; decide
theorem test_witness_woken : { twoTakeable with asleep := true }.running ∧
    { twoTakeable with asleep := true }.nextInput.coreError = false ∧
    { twoTakeable with asleep := true }.afterEnvironment.takeable ≠ [] ∧ { twoTakeable with asleep := true }.trapDepth = 0 := by
  unfold State.running; decide
-- TimerCounter: stopped, free, with a fixed tick; a read of the counter is no write
theorem test_witness_timer_off : base.csrs.mcctr.getLsbD 2 = false := by decide
theorem test_witness_timer_on :
    let s := { withConfig { Config.default with mtimeTick := some 60 } with csrs := { Csrs.reset with mcctr := 4 } }
    s.csrs.mcctr.getLsbD 2 = true ∧ s.config.mtimeTick = some 60 := by decide
theorem test_witness_timer_frame : writesCsr (.csrrs 14 0xB03 0) (fun a => a == 0xB03#12 || a == 0xB83#12) = false ∧
    (nextOf (exec (.csrrs 14 0xB03 0) base)).isSome = true := ⟨rfl, rfl⟩
-- CsrReadTable, CsrWriteTable, CsrReadAfterWrite
theorem test_witness_read_row : (0xB88#12, 0#27 ++ base.csrs.mcctr) ∈ [(0xB88#12, 0#27 ++ base.csrs.mcctr)] := by decide
theorem test_witness_no_csr : (0xC00#12) ∉ csrAddresses ∧ csrImplemented 0xC00 = false := by decide
theorem test_witness_write_register : PureCsrWrite (withRegs [(6, 0x41)]) 0x346 0x41 (.csrrw 0 0x346 6) :=
  .inl ⟨6, rfl, rfl⟩
theorem test_witness_write_immediate : PureCsrWrite base 0x300 31 (.csrrwi 0 0x300 31) := .inr ⟨31, rfl, rfl⟩
theorem test_witness_write_mcctr : PureCsrWrite base 0xB88 8 (.csrrwi 0 0xB88 8) := .inr ⟨8, rfl, rfl⟩
theorem test_witness_write_mip : PureCsrWrite base 0x344 0 (.csrrw 0 0x344 0) := .inl ⟨0, rfl, rfl⟩
theorem test_witness_write_msip : PureCsrWrite base 0x345 2 (.csrrwi 0 0x345 2) := .inr ⟨2, rfl, rfl⟩
theorem test_witness_write_mends : PureCsrWrite base 0x347 1 (.csrrwi 0 0x347 1) := .inr ⟨1, rfl, rfl⟩
theorem test_witness_write_absent : csrImplemented 0x7C0 = false ∧ PureCsrWrite base 0x7C0 0 (.csrrw 0 0x7C0 0) :=
  ⟨by decide, .inl ⟨0, rfl, rfl⟩⟩
theorem test_witness_written : csrWriteOnly 0x305 = false ∧ (0xB82#12) ≠ 0x305#12 ∧ (0xB82#12) ≠ 0x344#12 ∧
    csrWriteOnly 0xB82 = false ∧ (nextOf (exec (.csrrw 0 0x305 6) (withRegs [(6, 0xFFFFFFFF)]))).isSome = true := by decide
-- CsrSwapForms: an ordinary register, and each write-only register at the ends of what it takes
theorem test_witness_swap_register : csrWriteOk 0x340 ((withRegs [(6, 0x22)]).readReg 6) := by unfold csrWriteOk; decide
theorem test_witness_swap_msip : csrWriteOk 0x345 (BitVec.ofNat 32 (0#5).toNat) ∧ csrWriteOk 0x345 (BitVec.ofNat 32 (1#5).toNat) := by
  unfold csrWriteOk; decide
theorem test_witness_swap_mprints : csrWriteOk 0x346 ((withRegs [(6, 0xFF)]).readReg 6) := by unfold csrWriteOk; decide
theorem test_witness_swap_mends : csrWriteOk 0x347 (BitVec.ofNat 32 (1#5).toNat) := by unfold csrWriteOk; decide
-- CsrSetClearForms: with an operand (each form), without one on a write-only register
theorem test_witness_set_register : csrImplemented 0x300 = true ∧ csrWriteOnly 0x300 = false ∧ (0x300#12) ≠ 0x344#12 ∧
    (6#5 ≠ 0#5 ∧ Instr.csrrs 5 0x300 6 = .csrrs 5 0x300 6 ∧
      0x1888#32 = (withRegs [(6, 0x1888)]).csrRead 0x300 ||| (withRegs [(6, 0x1888)]).readReg 6) := by decide
theorem test_witness_clear_immediate : csrImplemented 0xB88 = true ∧ csrWriteOnly 0xB88 = false ∧ (0xB88#12) ≠ 0x344#12 ∧
    (31#5 ≠ 0#5 ∧ Instr.csrrci 5 0xB88 31 = .csrrci 5 0xB88 31 ∧
      0#32 = base.csrRead 0xB88 &&& ~~~BitVec.ofNat 32 (31#5).toNat) := by decide
theorem test_witness_no_operand : csrImplemented 0x347 = true := by decide
-- CsrRefusals
theorem test_witness_write_only : csrWriteOnly 0x345 = true ∧ csrWriteOnly 0x346 = true ∧ csrWriteOnly 0x347 = true ∧
    1#5 ≠ 0#5 := by decide
-- CsrRefusals, values without meaning: the first ones past what msip, mprints and mends take
theorem test_witness_bad_values : 1 < ((withRegs [(6, 2)]).readReg 6).toNat ∧ 1 < (2#5).toNat ∧
    255 < ((withRegs [(6, 0x100)]).readReg 6).toNat ∧ (base.readReg 6).toNat ≠ 1 ∧ (0#5).toNat ≠ 1 := by decide
-- CustomCsrEffects
theorem test_witness_msip_request :
    let s := { base with csrs := { softwareCsrs with msipPending := false } }
    let t := after (exec (.csrrwi 0 0x345 1) s) base
    exec (.csrrwi 0 0x345 1) s = .next t ∧ s.csrs.msie = true ∧ s.csrs.mie = true ∧
      exec .mret t = .next (after (exec .mret t) base) ∧
      exec (.csrrwi 0 0x345 0) t = .next (after (exec (.csrrwi 0 0x345 0) t) base) := ⟨rfl, rfl, rfl, rfl, rfl⟩
theorem test_witness_mcctr_reset :
    let s := withRegs [(6, 8)]
    s.simEnded = false ∧ (s.readReg 6).getLsbD 3 = true ∧
      exec (.csrrw 0 0xB88 6) s = .next (after (exec (.csrrw 0 0xB88 6) s) base) := ⟨rfl, rfl, rfl⟩
theorem test_witness_mends_write : exec (.csrrwi 0 0x347 1) base = .next (after (exec (.csrrwi 0 0x347 1) base) base) := rfl
-- LoadsFromMemory, StoresToMemory: the last byte, half word and word of the data memory, the first of the program memory
theorem test_witness_load_byte : ReachesMemory base 0x1FFF 1 false := by
  right; exact ⟨by decide, Config.default.memoryMap[1], by decide, rfl, rfl⟩
theorem test_witness_load_half : ReachesMemory base 0x1FFE 2 false := by
  right; exact ⟨by decide, Config.default.memoryMap[1], by decide, rfl, rfl⟩
theorem test_witness_load_word : ReachesMemory base 0x1FFC 4 false := by
  right; exact ⟨by decide, Config.default.memoryMap[1], by decide, rfl, rfl⟩
theorem test_witness_load_program : ReachesMemory base 0 4 false := by
  left; exact ⟨by decide, Config.default.memoryMap[0], by decide, rfl, rfl⟩
theorem test_witness_store_byte : ReachesMemory base 0x1FFF 1 true ∧
    (withRegs [(1, 0x2000)]).effectiveAddress 1 0xFFF = 0x1FFF := by
  refine ⟨?_, by decide⟩; right; exact ⟨by decide, Config.default.memoryMap[1], by decide, rfl, rfl⟩
theorem test_witness_code_record : Reaches base 0x1FFC 4 true .dataMemory ∧ Reaches base 0xFFC 4 true .programMemory :=
  ⟨⟨by decide, Config.default.memoryMap[1], by decide, rfl, rfl⟩, ⟨by decide, Config.default.memoryMap[0], by decide, rfl, rfl⟩⟩
theorem test_witness_store_half : ReachesMemory base 0x1FFE 2 true := by
  right; exact ⟨by decide, Config.default.memoryMap[1], by decide, rfl, rfl⟩
theorem test_witness_store_word : ReachesMemory base 0x1FFC 4 true := by
  right; exact ⟨by decide, Config.default.memoryMap[1], by decide, rfl, rfl⟩
-- DeviceAccesses, at the ends of the device's range
theorem test_witness_device_byte : Reaches (withConfig deviceConfig) 0x2FFF 1 false .device ∧
    Reaches (withConfig deviceConfig) 0x2FFF 1 true .device :=
  ⟨⟨by decide, deviceConfig.memoryMap[2], by decide, rfl, rfl⟩, ⟨by decide, deviceConfig.memoryMap[2], by decide, rfl, rfl⟩⟩
theorem test_witness_device_half : Reaches (withConfig deviceConfig) 0x2FFE 2 false .device ∧
    Reaches (withConfig deviceConfig) 0x2FFE 2 true .device :=
  ⟨⟨by decide, deviceConfig.memoryMap[2], by decide, rfl, rfl⟩, ⟨by decide, deviceConfig.memoryMap[2], by decide, rfl, rfl⟩⟩
theorem test_witness_device_word : Reaches (withConfig deviceConfig) 0x2000 4 false .device ∧
    Reaches (withConfig deviceConfig) 0x2000 4 true .device :=
  ⟨⟨by decide, deviceConfig.memoryMap[2], by decide, rfl, rfl⟩, ⟨by decide, deviceConfig.memoryMap[2], by decide, rfl, rfl⟩⟩
-- AccessStops: misaligned, unmapped just past the last range, answered with an error
theorem test_witness_access_misaligned : (withRegs [(1, 0x1001)]).effectiveAddress 1 0 = 0x1001 ∧ (0x1001#32).toNat % 2 ≠ 0 := by
  decide
theorem test_witness_access_unmapped : (withRegs [(1, 0x2000)]).effectiveAddress 1 0 = 0x2000 ∧ (0x2000#32).toNat % 4 = 0 ∧
    Config.dataRegion Config.default 0x2000 4 true = none := by decide
theorem test_witness_access_error : (0x3000#32).toNat % 4 = 0 ∧
    ∃ q, Config.dataRegion deviceConfig 0x3000 4 false = some q ∧ q.answersError = true :=
  ⟨by decide, deviceConfig.memoryMap[3], by decide, rfl⟩
-- MixedWidthExample, at the last word of the data memory
theorem test_witness_mixed :
    let s := withRegs [(1, 0x1FFC), (2, 0x44332211), (4, 0xEE)]
    s.readReg 1 = 0x1FFC ∧ (0x1FFC#32).toNat % 4 = 0 ∧ s.readReg 2 = 0x44332211 ∧ s.readReg 4 = 0xEE ∧
      exec (.sw 2 1 0) s = .next (after (exec (.sw 2 1 0) s) base) := ⟨rfl, rfl, rfl, rfl, rfl⟩
theorem test_witness_mixed_range (b n : Nat) (write : Bool) (h : 0x1FFC ≤ b) (h' : b + n ≤ 0x1FFC + 4) (_ : 0 < n) :
    ∃ r, Config.dataRegion Config.default b n write = some r ∧ r.answersError = false ∧ r.kind = .dataMemory := by
  refine ⟨Config.default.memoryMap[1], ?_, rfl, rfl⟩
  have h1 : ¬ b + n ≤ 4096 := by omega
  have h2 : 4096 ≤ b := by omega
  have h3 : b + n ≤ 8192 := by omega
  simp [Config.dataRegion, Config.default, Region.covers, h1, h2, h3]
-- StoredCodeNotFetched: a store into the last word of the program memory, fetched again, and an untouched word
theorem test_witness_stored_code :
    let s := withRegs [(1, 0xFFC), (2, 0x13)]
    s.effectiveAddress 1 0 = 0xFFC ∧ Reaches s 0xFFC 4 true .programMemory ∧
      exec (.sw 2 1 0) s = .next (after (exec (.sw 2 1 0) s) base) ∧
      Config.inProgramMemory s.config (0xFFC#32).toNat 4 = true ∧ Config.inProgramMemory s.config (0xFF8#32).toNat 4 = true ∧
      ∃ b, (0xFFC#32).toNat ≤ b ∧ b < (0xFFC#32).toNat + 4 ∧ (0xFFC#32).toNat ≤ b ∧ b < (0xFFC#32).toNat + 4 :=
  ⟨by decide, ⟨by decide, Config.default.memoryMap[0], by decide, rfl, rfl⟩, rfl, by decide, by decide, 0xFFF, by decide⟩
theorem test_witness_untouched_code :
    ∀ b, (0xFFC#32).toNat ≤ b → b < (0xFFC#32).toNat + 4 → ¬ ((0xFF8#32).toNat ≤ b ∧ b < (0xFF8#32).toNat + 4) := by
  intro b h _ h'
  have h1 : 0xFFC ≤ b := h
  have h2 : b < 0xFF8 + 4 := h'.2
  omega
-- BranchesOnEquality, BranchesSigned, BranchesUnsigned, JumpsLink: the ends of the offsets, both parities of a target
theorem test_witness_branch_offset : (0x1000#13) = (0x800#12 ++ 0#1) ∧ (0xFFE#13) = (0x7FF#12 ++ 0#1) := by decide
theorem test_witness_jump_offset : (0x100000#21) = (0x80000#20 ++ 0#1) := by decide
theorem test_witness_jalr_even : ((base.readReg 0).toNat + (0x800#12).toInt) % 2 = 0 := by decide
theorem test_witness_jalr_odd : (((withRegs [(1, 5)]).readReg 1).toNat + (0#12).toInt) % 2 = 1 := by decide
-- SignedDivision, UnsignedDivision: by zero, the overflow, the ordinary case
theorem test_witness_division : ((withRegs [(1, 0x80000000), (2, 0xFFFFFFFF)]).readReg 1).toInt = -2 ^ 31 ∧
    ((withRegs [(1, 0x80000000), (2, 0xFFFFFFFF)]).readReg 2).toInt = -1 ∧ (base.readReg 2).toInt = 0 ∧
    ((withRegs [(2, 0xFFFFFFFE)]).readReg 2).toInt ≠ 0 ∧ ¬ (((withRegs [(1, 7)]).readReg 1).toInt = -2 ^ 31 ∧ (-2 : Int) = -1) := by
  decide
theorem test_witness_unsigned_division : (base.readReg 2).toNat = 0 ∧ ((withRegs [(2, 2)]).readReg 2).toNat ≠ 0 := by decide
-- ResetValues, InvariantAtReset
theorem test_witness_reset : State.reset = State.launch Config.default (Vector.replicate 32 0) [] [] ∧ Config.default.wf = true ∧
    (31#5) ≠ 0#5 := ⟨rfl, by decide, by decide⟩
theorem test_witness_image : Memory.wf [(0, 0x13), (0xFFFFFFFF, 0)] := by unfold Memory.wf; decide
-- StepKeepsInvariant, OnlyStoresChangeMemory, OutputsOnlyGrow: a store step from a state that has the invariant
/-- A hart about to store x2 at the last word of the program memory. -/
def storing : State := (withRegs [(1, 0xFFC), (2, 0x13)]).withFetchWord 32 0x0020A023
theorem test_witness_store_step : step storing = .next (after (step storing) base) := rfl
theorem test_witness_store_changes : (memLookup (after (step storing) base).mem 0xFFC, memLookup storing.mem 0x100) =
    (some 0x13, some 0x23) := by decide
theorem test_witness_byte_changes :
    let s := { storing with mem := memInsert storing.mem 0xFFC 0xFF }
    step s = .next (after (step s) base) ∧ (after (step s) base).byteAt 0xFFC ≠ s.byteAt 0xFFC := ⟨rfl, by decide⟩
theorem test_witness_invariant : storing.Inv where
  memory := by unfold Memory.wf; decide
  storedRising := by decide
  storedInProgram := by decide
  zeroSlot := by decide
  pendingId := fun _ h => nomatch h
  serviceId := fun _ h => nomatch h
  requestId := fun _ h => nomatch h
  serviceInHandler := fun h => absurd rfl h
-- OutputsOnlyGrow: a step that prints, one that ends the run, one that requests a reset; an output that is already 1
theorem test_witness_outputs :
    let p := (withRegs [(6, 0xFF)]).withFetchWord 32 0x34631073
    let e := ready 0x3470D073
    let r := ready 0xB8845073
    step p = .next (after (step p) base) ∧ (after (step p) base).simOutput ≠ p.simOutput ∧
      step e = .next (after (step e) base) ∧ (after (step e) base).simEnded = true ∧
      step r = .next (after (step r) base) ∧ (after (step r) base).softResetReq = true :=
  ⟨rfl, by decide, rfl, rfl, rfl, rfl⟩
theorem test_witness_outputs_stay :
    let s := { base with simEnded := true, softResetReq := true }
    s.simEnded = true ∧ s.softResetReq = true ∧ exec .mret s = .next (after (exec .mret s) base) := ⟨rfl, rfl, rfl⟩
-- StoredCodeNeverFetchedAgain: one step after the store of `storing`, its last byte still recorded
theorem test_witness_stored_stays :
    let s := { after (step storing) base with pc := 0x200 }.withFetchWord 32 0x00000013
    step s = .next (after (step s) base) ∧ 0xFFF ∈ s.storedCode := ⟨rfl, by decide⟩
theorem test_witness_stored_reachable :
    let s := { after (step storing) base with pc := 0x200 }.withFetchWord 32 0x00000013
    ReachableFrom s (after (step s) base) ∧ 0xFFF ∈ s.storedCode ∧ (0xFFC#32).toNat % 4 = 0 ∧
      Config.inProgramMemory s.config (0xFFC#32).toNat 4 = true ∧ (0xFFC#32).toNat ≤ 0xFFF ∧ 0xFFF < (0xFFC#32).toNat + 4 :=
  ⟨.step .refl rfl, by decide, by decide, by decide, by decide, by decide⟩
-- MsipPendingChangedOnlyBy: made and withdrawn
theorem test_witness_msip_changes :
    let s := ready 0x3450D073
    let t := { base with csrs := { Csrs.reset with msipPending := true } }.withFetchWord 32 0x34505073
    step s = .next (after (step s) base) ∧ (after (step s) base).csrs.msipPending ≠ s.csrs.msipPending ∧
      step t = .next (after (step t) base) ∧ (after (step t) base).csrs.msipPending ≠ t.csrs.msipPending :=
  ⟨rfl, by decide, rfl, by decide⟩
-- InterruptsEnabledOnlyBy
theorem test_witness_enabling :
    let s := ready 0x300462F3
    step s = .next (after (step s) base) ∧ s.csrs.mie = false ∧ (after (step s) base).csrs.mie = true := ⟨rfl, rfl, rfl⟩

end Sys2Proof.Tests
end

section
/-! The layer below the statements about results in `rd`: words of the R and the I format as `EncodedAs` reads them,
and the operand forms as numbers. -/

namespace Sys2Proof.Machine

/-! ### Words and the instructions they mean (30_encoding.md R121, R122, R131, R135) -/

/-- A word means the instruction that its fields select, an M row only with HAS_M. -/
theorem encodedAs_wordOf {f : Fields} {i : Instr}
    (h : ∀ hasM, decodeFields hasM f = if (i.isM && !hasM) = true then none else some i) : EncodedAs (wordOf f) i := by
  intro rve hasM
  unfold decode
  rw [fieldsOf_wordOf, h hasM]
  by_cases hM : (i.isM && !hasM) = true
  · rw [if_pos hM, if_pos hM]
  · rw [if_neg hM, if_neg hM]

/-- A word of the R format whose fields select a row outside the M rows. -/
theorem encodedAs_formatR {f7 : BitVec 7} {rs2 rs1 : RegNum} {f3 : BitVec 3} {rd : RegNum} {op : BitVec 7} {i : Instr}
    (hM : i.isM = false) (h : ∀ hasM, decodeFields hasM ⟨f7, rs2, rs1, f3, rd, op⟩ = some i) :
    EncodedAs (f7 ++ rs2 ++ rs1 ++ f3 ++ rd ++ op) i :=
  encodedAs_wordOf (f := ⟨f7, rs2, rs1, f3, rd, op⟩) fun hasM => by simp [h, hM]

/-- A word of the I format whose row takes the whole 12-bit field as its immediate. -/
theorem encodedAs_formatI {imm : BitVec 12} {rs1 : RegNum} {f3 : BitVec 3} {rd : RegNum} {op : BitVec 7}
    (i : BitVec 12 → Instr) (hM : (i imm).isM = false)
    (h : ∀ hasM f7 rs2, decodeFields hasM ⟨f7, rs2, rs1, f3, rd, op⟩ = some (i (f7 ++ rs2))) :
    EncodedAs (imm ++ rs1 ++ f3 ++ rd ++ op) (i imm) := by
  have hjoin : imm.extractLsb' 5 7 ++ imm.extractLsb' 0 5 ++ rs1 ++ f3 ++ rd ++ op = imm ++ rs1 ++ f3 ++ rd ++ op :=
    congrArg (· ++ rs1 ++ f3 ++ rd ++ op) (imm12_join imm)
  rw [← hjoin]
  exact encodedAs_formatR hM fun hasM => by rw [h, imm12_join]

/-! ### Results in `rd` -/

/-- An instruction that is `State.result` of a value with a property has the effect and the frame of `RegisterResult`. -/
theorem registerResult_of_exec {s : State} {i : Instr} {rd : RegNum} {P : Word → Prop} (v : Word)
    (hexec : exec i s = s.result rd v) (hv : P v) :
    ∃ t v, exec i s = .next t ∧ RegisterResult s t rd v (s.pc + 4) ∧ P v := by
  obtain ⟨t, ht, hres⟩ := registerResult_result s rd v
  exact ⟨t, v, hexec.trans ht, hres, hv⟩

/-! ### Operand forms as numbers -/

/-- The sign-extended immediate has the signed reading of its field (30_encoding.md R128). -/
@[simp] theorem toInt_sextImm (imm : BitVec 12) : (sextImm imm).toInt = imm.toInt :=
  BitVec.toInt_signExtend_of_le (by decide)

/-- The unsigned reading of a word is its signed reading modulo 2^32. -/
theorem toNat_eq_toInt_emod (v : Word) : (v.toNat : Int) = v.toInt % 2 ^ 32 := by
  have := v.isLt
  rw [BitVec.toInt_eq_toNat_cond]
  split <;> omega

theorem toNat_sextImm (imm : BitVec 12) : ((sextImm imm).toNat : Int) = imm.toInt % 2 ^ 32 := by
  rw [toNat_eq_toInt_emod, toInt_sextImm]

/-- A sum with the sign-extended immediate, modulo 2^32. -/
theorem toNat_add_sextImm (a : Word) (imm : BitVec 12) :
    ((a + sextImm imm).toNat : Int) = (a.toNat + imm.toInt) % 2 ^ 32 := by
  have := toNat_sextImm imm
  rw [BitVec.toNat_add]
  omega

/-- A difference modulo 2^32, over the integers. -/
theorem toNat_sub_word (a b : Word) : ((a - b).toNat : Int) = (a.toNat - b.toNat : Int) % 2 ^ 32 := by
  have := b.isLt
  rw [BitVec.toNat_sub]
  omega

/-- The low five bits as a remainder (40_alu_reg.md R165). -/
@[simp] theorem shiftAmount_eq (v : Word) : shiftAmount v = v.toNat % 32 := by
  simp [shiftAmount, BitVec.extractLsb'_toNat]

theorem toNat_shiftLeft_word (a : Word) (n : Nat) : (a <<< n).toNat = a.toNat * 2 ^ n % 2 ^ 32 := by
  rw [BitVec.toNat_shiftLeft, Nat.shiftLeft_eq]

theorem toNat_ushiftRight_word (a : Word) (n : Nat) : (a >>> n).toNat = a.toNat / 2 ^ n := by
  rw [BitVec.toNat_ushiftRight, Nat.shiftRight_eq_div_pow]

/-- The arithmetic shift right is the floor of the signed quotient. -/
theorem toInt_sshiftRight_word (a : Word) (n : Nat) : (a.sshiftRight n).toInt = a.toInt.fdiv (2 ^ n) := by
  rw [BitVec.toInt_sshiftRight, Int.shiftRight_eq_div_pow, Int.fdiv_eq_ediv_of_nonneg _ (by positivity)]
  push_cast
  rfl

/-- The result of a comparison is 1 when it holds, else 0 (40_alu_reg.md R168). -/
theorem toNat_boolWord_decide (p : Prop) [Decidable p] : (boolWord (decide p)).toNat = if p then 1 else 0 := by
  by_cases hp : p <;> simp [boolWord, hp]

end Sys2Proof.Machine
end

section
/-! The statements about register results of 40_alu_reg.md, with the immediate forms that share them. -/

namespace Sys2Proof.Machine

/-- Settles O46: each amount is the low five bits as a remainder, each shift a product or a quotient by its power of 2. -/
theorem shiftsRegister : Obligations.ShiftsRegister := by
  intro s rd rs1 rs2
  have hamount := shiftAmount_eq (s.readReg rs2)
  refine ⟨encodedAs_formatR rfl fun _ => rfl, encodedAs_formatR rfl fun _ => rfl, encodedAs_formatR rfl fun _ => rfl,
    ?sll, ?srl, ?sra⟩
  case sll =>
    refine registerResult_of_exec (s.readReg rs1 <<< shiftAmount (s.readReg rs2)) rfl ?_
    rw [hamount, toNat_shiftLeft_word]
  case srl =>
    refine registerResult_of_exec (s.readReg rs1 >>> shiftAmount (s.readReg rs2)) rfl ?_
    rw [hamount, toNat_ushiftRight_word]
  case sra =>
    refine registerResult_of_exec ((s.readReg rs1).sshiftRight (shiftAmount (s.readReg rs2))) rfl ?_
    rw [hamount, toInt_sshiftRight_word]

/-- Settles O43: the words add and subtract modulo 2^32, the immediate by its signed reading. -/
theorem addSubtract : Obligations.AddSubtract := by
  intro s rd rs1 rs2 imm
  refine ⟨encodedAs_formatR rfl fun _ => rfl, encodedAs_formatR rfl fun _ => rfl,
    encodedAs_formatI (.addi rd rs1) rfl fun _ _ _ => rfl, ?add, ?sub, ?addi⟩
  case add => exact registerResult_of_exec (s.readReg rs1 + s.readReg rs2) rfl (BitVec.toNat_add ..)
  case sub => exact registerResult_of_exec (s.readReg rs1 - s.readReg rs2) rfl (toNat_sub_word ..)
  case addi => exact registerResult_of_exec (s.readReg rs1 + sextImm imm) rfl (toNat_add_sextImm ..)

/-- Settles O44: the word operations act bit by bit. -/
theorem bitwiseRegister : Obligations.BitwiseRegister := by
  intro s rd rs1 rs2
  refine ⟨encodedAs_formatR rfl fun _ => rfl, encodedAs_formatR rfl fun _ => rfl, encodedAs_formatR rfl fun _ => rfl,
    ?xor, ?or, ?and⟩
  case xor => exact registerResult_of_exec (s.readReg rs1 ^^^ s.readReg rs2) rfl fun _ _ => BitVec.getLsbD_xor
  case or => exact registerResult_of_exec (s.readReg rs1 ||| s.readReg rs2) rfl fun _ _ => BitVec.getLsbD_or
  case and => exact registerResult_of_exec (s.readReg rs1 &&& s.readReg rs2) rfl fun _ _ => BitVec.getLsbD_and

/-- Settles O48: each comparison is decided on the readings, the immediate's being those of its sign extension. -/
theorem comparisons : Obligations.Comparisons := by
  intro s rd rs1 rs2 imm
  refine ⟨encodedAs_formatR rfl fun _ => rfl, encodedAs_formatR rfl fun _ => rfl,
    encodedAs_formatI (.slti rd rs1) rfl fun _ _ _ => rfl, encodedAs_formatI (.sltiu rd rs1) rfl fun _ _ _ => rfl,
    ?slt, ?sltu, ?slti, ?sltiu⟩
  case slt =>
    exact registerResult_of_exec (boolWord (lessSigned (s.readReg rs1) (s.readReg rs2))) rfl (toNat_boolWord_decide _)
  case sltu =>
    exact registerResult_of_exec (boolWord (lessUnsigned (s.readReg rs1) (s.readReg rs2))) rfl (toNat_boolWord_decide _)
  case slti =>
    refine registerResult_of_exec (boolWord (lessSigned (s.readReg rs1) (sextImm imm))) rfl ?_
    rw [← toInt_sextImm imm]
    exact toNat_boolWord_decide _
  case sltiu =>
    refine registerResult_of_exec (boolWord (lessUnsigned (s.readReg rs1) (sextImm imm))) rfl ?_
    simp only [← toNat_sextImm imm, Int.ofNat_lt]
    exact toNat_boolWord_decide _

end Sys2Proof.Machine
end

section
/-! The bitwise and shift statements of 41_alu_imm.md. -/

namespace Sys2Proof.Machine

/-- Bit 11 of the field stands for every bit of the word above it (30_encoding.md R128). -/
theorem getLsbD_sextImm (imm : BitVec 12) {k : Nat} (hk : k < 32) :
    (sextImm imm).getLsbD k = imm.getLsbD (min k 11) := by
  rw [sextImm, BitVec.getLsbD_signExtend, BitVec.msb_eq_getLsbD_last]
  by_cases hlow : k < 12
  · have hmin : min k 11 = k := by omega
    simp [hk, hlow, hmin]
  · have hmin : min k 11 = 11 := by omega
    simp [hk, hlow, hmin]

/-- Settles O45: the word operations act bit by bit, on the immediate by the bits of its sign extension. -/
theorem bitwiseImmediate : Obligations.BitwiseImmediate := by
  intro s rd rs1 imm
  refine ⟨encodedAs_formatI (.xori rd rs1) rfl fun _ _ _ => rfl, encodedAs_formatI (.ori rd rs1) rfl fun _ _ _ => rfl,
    encodedAs_formatI (.andi rd rs1) rfl fun _ _ _ => rfl, ?xori, ?ori, ?andi⟩
  case xori =>
    refine registerResult_of_exec (s.readReg rs1 ^^^ sextImm imm) rfl fun k hk => ?_
    rw [BitVec.getLsbD_xor, getLsbD_sextImm imm hk]
  case ori =>
    refine registerResult_of_exec (s.readReg rs1 ||| sextImm imm) rfl fun k hk => ?_
    rw [BitVec.getLsbD_or, getLsbD_sextImm imm hk]
  case andi =>
    refine registerResult_of_exec (s.readReg rs1 &&& sextImm imm) rfl fun k hk => ?_
    rw [BitVec.getLsbD_and, getLsbD_sextImm imm hk]

/-- Settles O47: each shift is a product or a quotient by the power of 2 that the field in the instruction names. -/
theorem shiftsImmediate : Obligations.ShiftsImmediate := by
  intro s rd rs1 shamt
  refine ⟨encodedAs_formatR rfl fun _ => rfl, encodedAs_formatR rfl fun _ => rfl, encodedAs_formatR rfl fun _ => rfl,
    ?slli, ?srli, ?srai⟩
  case slli =>
    exact registerResult_of_exec (s.readReg rs1 <<< shamt.toNat) rfl (toNat_shiftLeft_word ..)
  case srli =>
    exact registerResult_of_exec (s.readReg rs1 >>> shamt.toNat) rfl (toNat_ushiftRight_word ..)
  case srai =>
    exact registerResult_of_exec ((s.readReg rs1).sshiftRight shamt.toNat) rfl (toInt_sshiftRight_word ..)

end Sys2Proof.Machine
end

section
/-! The six branches of 44_branch.md: the word of the B format, the target over the integers, the effect. -/

namespace Sys2Proof.Machine

/-! ### Words of the B format (30_encoding.md R124, R128, R131) -/

/-- The two pieces of the offset at the place of `rd` read as one field (R124). -/
theorem formatB_low_join (high : BitVec 20) (a : BitVec 4) (b : BitVec 1) (op : BitVec 7) :
    high ++ a ++ b ++ op = high ++ (a ++ b) ++ op :=
  congrArg (· ++ op) (BitVec.append_assoc.trans (BitVec.cast_eq ..))

/-- A word of the B format with an even offset, whose row takes the offset that the decoder joins. -/
theorem encodedAs_formatB {f : BitVec 12} {o : BitVec 13} (heven : o = f ++ 0#1) {rs2 rs1 : RegNum} {f3 : BitVec 3}
    {op : BitVec 7} (i : BitVec 13 → Instr) (hM : (i o).isM = false)
    (h : ∀ hasM f7 rd, decodeFields hasM ⟨f7, rs2, rs1, f3, rd, op⟩ =
      some (i (Fields.immB ⟨f7, rs2, rs1, f3, rd, op⟩))) :
    EncodedAs (o.extractLsb' 12 1 ++ o.extractLsb' 5 6 ++ rs2 ++ rs1 ++ f3 ++ o.extractLsb' 1 4 ++
      o.extractLsb' 11 1 ++ op) (i o) := by
  have hbit : o.getLsbD 0 = false := by rw [heven]; exact (BitVec.getLsbD_append ..).trans rfl
  rw [formatB_low_join]
  exact encodedAs_formatR hM fun hasM => by rw [h, immB_join o hbit]

/-! ### The target and the effect (44_branch.md R237) -/

/-- The target is the sum of the pc and the signed offset over the integers, modulo 2^32. -/
theorem branchTarget_eq_ofInt (s : State) (o : BitVec 13) :
    s.branchTarget o = BitVec.ofInt 32 (s.pc.toNat + o.toInt) := by
  rw [State.branchTarget, BitVec.ofInt_add, BitVec.ofInt_natCast, BitVec.ofNat_toNat, BitVec.setWidth_eq]
  rfl

/-- An instruction that is `State.branchIf` of a condition moves the pc by that condition and changes nothing else. -/
theorem onlyPc_of_exec {s : State} {i : Instr} {taken : Bool} {o : BitVec 13} {P : Prop} [Decidable P]
    (hexec : exec i s = s.branchIf taken o) (hP : taken = true ↔ P) :
    ∃ t, exec i s = .next t ∧
      OnlyPc s t (if P then BitVec.ofInt 32 (s.pc.toNat + o.toInt) else s.pc + 4) := by
  obtain ⟨t, ht, hpc⟩ := onlyPc_branchIf s taken o
  rw [branchTarget_eq_ofInt] at hpc
  simp only [hP] at hpc
  exact ⟨t, hexec.trans ht, hpc⟩

/-! ### The conditions -/

/-- `<s` holds when the signed reading is less. -/
theorem lessSigned_iff (a b : Word) : lessSigned a b = true ↔ a.toInt < b.toInt := decide_eq_true_iff

/-- `<u` holds when the unsigned reading is less. -/
theorem lessUnsigned_iff (a b : Word) : lessUnsigned a b = true ↔ a.toNat < b.toNat := decide_eq_true_iff

/-- `>=s`: on the signed readings, which are totally ordered, the complement of `<s`. -/
theorem not_lessSigned_iff (a b : Word) : (!lessSigned a b) = true ↔ b.toInt ≤ a.toInt := by
  rw [Bool.not_eq_true', ← Bool.not_eq_true, lessSigned_iff, Int.not_lt]

/-- `>=u`: the complement of `<u` on the unsigned readings. -/
theorem not_lessUnsigned_iff (a b : Word) : (!lessUnsigned a b) = true ↔ b.toNat ≤ a.toNat := by
  rw [Bool.not_eq_true', ← Bool.not_eq_true, lessUnsigned_iff, Nat.not_lt]

/-! ### The statements -/

/-- Settles O38: both branches are decided by the equality of the whole words. -/
theorem branchesOnEquality : Obligations.BranchesOnEquality := by
  intro s rs1 rs2 f o heven
  refine ⟨encodedAs_formatB heven (.beq rs1 rs2) rfl fun _ _ _ => rfl,
    encodedAs_formatB heven (.bne rs1 rs2) rfl fun _ _ _ => rfl, ?beq, ?bne⟩
  case beq => exact onlyPc_of_exec (taken := s.readReg rs1 == s.readReg rs2) rfl beq_iff_eq
  case bne => exact onlyPc_of_exec (taken := s.readReg rs1 != s.readReg rs2) rfl bne_iff_ne

/-- Settles O39: `blt` is decided by the order of the signed readings, `bge` by its complement. -/
theorem branchesSigned : Obligations.BranchesSigned := by
  intro s rs1 rs2 f o heven
  refine ⟨encodedAs_formatB heven (.blt rs1 rs2) rfl fun _ _ _ => rfl,
    encodedAs_formatB heven (.bge rs1 rs2) rfl fun _ _ _ => rfl, ?blt, ?bge⟩
  case blt => exact onlyPc_of_exec rfl (lessSigned_iff ..)
  case bge => exact onlyPc_of_exec rfl (not_lessSigned_iff ..)

/-- Settles O40: `bltu` is decided by the order of the unsigned readings, `bgeu` by its complement. -/
theorem branchesUnsigned : Obligations.BranchesUnsigned := by
  intro s rs1 rs2 f o heven
  refine ⟨encodedAs_formatB heven (.bltu rs1 rs2) rfl fun _ _ _ => rfl,
    encodedAs_formatB heven (.bgeu rs1 rs2) rfl fun _ _ _ => rfl, ?bltu, ?bgeu⟩
  case bltu => exact onlyPc_of_exec rfl (lessUnsigned_iff ..)
  case bgeu => exact onlyPc_of_exec rfl (not_lessUnsigned_iff ..)

end Sys2Proof.Machine
end

section
/-! The statement of 46_upper_imm.md: the word of the U format, the upper immediate as a number. -/

namespace Sys2Proof.Machine

/-- A word of the U format whose row takes the whole 20-bit field as its immediate (30_encoding.md R125, R131). -/
theorem encodedAs_formatU {imm : BitVec 20} {rd : RegNum} {op : BitVec 7} (i : BitVec 20 → Instr)
    (hM : (i imm).isM = false)
    (h : ∀ hasM f7 rs2 rs1 f3, decodeFields hasM ⟨f7, rs2, rs1, f3, rd, op⟩ =
      some (i (Fields.immU ⟨f7, rs2, rs1, f3, rd, op⟩))) :
    EncodedAs (imm ++ rd ++ op) (i imm) := by
  have hjoin : imm.extractLsb' 13 7 ++ imm.extractLsb' 8 5 ++ imm.extractLsb' 3 5 ++ imm.extractLsb' 0 3 ++ rd ++ op =
      imm ++ rd ++ op := congrArg (· ++ rd ++ op) (immU_join imm rd op)
  rw [← hjoin]
  exact encodedAs_formatR hM fun hasM => by rw [h, immU_join]

/-- The field stands 12 bits up, over zeros, so that it counts multiples of 4096. -/
theorem toNat_upperImm (imm : BitVec 20) : (upperImm imm).toNat = imm.toNat * 4096 := by
  rw [upperImm, BitVec.toNat_append, BitVec.toNat_ofNat, Nat.zero_mod, Nat.or_zero, Nat.shiftLeft_eq]

/-- Settles O42: `lui` gives the upper immediate, `auipc` its sum with the pc modulo 2^32. -/
theorem upperImmediates : Obligations.UpperImmediates := by
  intro s rd imm20
  refine ⟨encodedAs_formatU (.lui rd) rfl fun _ _ _ _ _ => rfl, encodedAs_formatU (.auipc rd) rfl fun _ _ _ _ _ => rfl,
    ?lui, ?auipc⟩
  case lui => exact registerResult_of_exec (upperImm imm20) rfl (toNat_upperImm imm20)
  case auipc =>
    refine registerResult_of_exec (s.pc + upperImm imm20) rfl ?_
    rw [BitVec.toNat_add, toNat_upperImm]

end Sys2Proof.Machine
end

section
/-! The statements of 49_m_ext.md: words of the M rows, the halves of a product, quotients and remainders. -/

namespace Sys2Proof.Machine

/-! ### Words of the M rows (30_encoding.md R121, R131, R135) -/

/-- A word of the R format whose fields select an M row: it has the row with HAS_M and is unlisted without. -/
theorem encodedAs_formatM {f7 : BitVec 7} {rs2 rs1 : RegNum} {f3 : BitVec 3} {rd : RegNum} {op : BitVec 7} {i : Instr}
    (hM : i.isM = true) (hwith : decodeFields true ⟨f7, rs2, rs1, f3, rd, op⟩ = some i)
    (hwithout : decodeFields false ⟨f7, rs2, rs1, f3, rd, op⟩ = none) :
    EncodedAs (f7 ++ rs2 ++ rs1 ++ f3 ++ rd ++ op) i := by
  refine encodedAs_wordOf (f := ⟨f7, rs2, rs1, f3, rd, op⟩) fun hasM => ?_
  cases hasM with
  | false => simp [hM, hwithout]
  | true => simp [hwith]

/-! ### Two results of one state -/

/-- Two instructions that put their results in `rd`, run from the same state: a quotient and its remainder. -/
theorem registerResults_of_exec {s : State} {i j : Instr} {rd : RegNum} {P : Word → Word → Prop} (q m : Word)
    (hi : exec i s = s.result rd q) (hj : exec j s = s.result rd m) (hP : P q m) :
    ∃ t u q m, exec i s = .next t ∧ RegisterResult s t rd q (s.pc + 4) ∧
      exec j s = .next u ∧ RegisterResult s u rd m (s.pc + 4) ∧ P q m := by
  obtain ⟨t, ht, hq⟩ := registerResult_result s rd q
  obtain ⟨u, hu, hm⟩ := registerResult_result s rd m
  exact ⟨t, u, q, m, hi.trans ht, hq, hj.trans hu, hm, hP⟩

/-! ### The upper half of a product (49_m_ext.md R301 to R303) -/

/-- The upper half counts the multiples of 2^32 in the product, rounded down. -/
theorem highHalf_eq_ofInt (p : Int) : highHalf p = BitVec.ofInt 32 (p / 2 ^ 32) := by
  apply BitVec.eq_of_toNat_eq
  rw [highHalf, BitVec.extractLsb'_toNat, Nat.shiftRight_eq_div_pow, BitVec.toNat_ofInt, BitVec.toNat_ofInt]
  omega

/-- A product of unsigned readings is below 2^64, so its upper half is read without a remainder. -/
theorem toNat_highHalf_mul (a b : Word) : (highHalf (a.toNat * b.toNat)).toNat = a.toNat * b.toNat / 2 ^ 32 := by
  have hlt : a.toNat * b.toNat < 2 ^ 32 * 2 ^ 32 := Nat.mul_lt_mul'' a.isLt b.isLt
  rw [highHalf_eq_ofInt, BitVec.toNat_ofInt]
  omega

/-- A product of a signed reading and a factor of at most 32 bits, signed or not, fits 64 bits with its sign. -/
theorem toInt_highHalf_mul (a : Word) {n : Int} (hn : n.natAbs < 2 ^ 32) :
    (highHalf (a.toInt * n)).toInt = (a.toInt * n).fdiv (2 ^ 32) := by
  have ha : a.toInt.natAbs ≤ 2 ^ 31 := by
    have := a.le_toInt
    have := a.toInt_lt
    omega
  have hlt : (a.toInt * n).natAbs < 2 ^ 31 * 2 ^ 32 :=
    calc (a.toInt * n).natAbs = a.toInt.natAbs * n.natAbs := Int.natAbs_mul ..
      _ ≤ 2 ^ 31 * n.natAbs := Nat.mul_le_mul_right _ ha
      _ < 2 ^ 31 * 2 ^ 32 := Nat.mul_lt_mul_of_pos_left hn (by decide)
  rw [highHalf_eq_ofInt, Int.fdiv_eq_ediv_of_nonneg _ (by decide)]
  exact BitVec.toInt_ofInt_eq_self (by decide) (by omega) (by omega)

/-- Settles O49: `mul` is the product of the words, the others upper halves of a product that fits 64 bits. -/
theorem multiplications : Obligations.Multiplications := by
  intro s rd rs1 rs2
  refine ⟨encodedAs_formatM rfl rfl rfl, encodedAs_formatM rfl rfl rfl, encodedAs_formatM rfl rfl rfl,
    encodedAs_formatM rfl rfl rfl, ?mul, ?mulhu, ?mulh, ?mulhsu⟩
  case mul => exact registerResult_of_exec (s.readReg rs1 * s.readReg rs2) rfl (BitVec.toNat_mul ..)
  case mulhu => exact registerResult_of_exec (highHalf _) rfl (toNat_highHalf_mul ..)
  case mulh =>
    refine registerResult_of_exec (highHalf _) rfl (toInt_highHalf_mul _ ?_)
    have := (s.readReg rs2).le_toInt
    have := (s.readReg rs2).toInt_lt
    omega
  case mulhsu => exact registerResult_of_exec (highHalf _) rfl (toInt_highHalf_mul _ (s.readReg rs2).isLt)

/-! ### Unsigned division (49_m_ext.md R305, R307, R309) -/

theorem divUnsigned_zero (a : Word) : divUnsigned a 0#32 = 0xFFFFFFFF#32 := if_pos rfl

theorem remUnsigned_zero (a : Word) : remUnsigned a 0#32 = a := if_pos rfl

theorem divUnsigned_of_ne_zero (a : Word) {b : Word} (hb : b ≠ 0#32) : divUnsigned a b = a / b := by
  rw [divUnsigned, if_neg hb, BitVec.udiv_def]

/-- The remainder, computed from the quotient, is the library's. -/
theorem remUnsigned_of_ne_zero (a : Word) {b : Word} (hb : b ≠ 0#32) : remUnsigned a b = a % b := by
  rw [remUnsigned, if_neg hb, BitVec.umod_def, Nat.mod_eq_sub]

/-- Settles O51: by zero the values of R309, else the quotient and the remainder of the words. -/
theorem unsignedDivision : Obligations.UnsignedDivision := by
  intro s rd rs1 rs2
  refine ⟨encodedAs_formatM rfl rfl rfl, encodedAs_formatM rfl rfl rfl, ?_⟩
  rintro _ _ rfl rfl
  refine registerResults_of_exec (divUnsigned (s.readReg rs1) (s.readReg rs2))
    (remUnsigned (s.readReg rs1) (s.readReg rs2)) rfl rfl ⟨fun hzero => ?zero, fun hne => ?ordinary⟩
  case zero =>
    have hb : s.readReg rs2 = 0#32 := BitVec.eq_of_toNat_eq hzero
    rw [hb, divUnsigned_zero, remUnsigned_zero]
    exact ⟨rfl, rfl⟩
  case ordinary =>
    have hb : s.readReg rs2 ≠ 0#32 := fun h => hne (congrArg BitVec.toNat h)
    rw [divUnsigned_of_ne_zero _ hb, remUnsigned_of_ne_zero _ hb, BitVec.toNat_udiv, BitVec.toNat_umod]
    exact ⟨rfl, rfl, (Nat.div_add_mod ..).symm⟩

/-! ### Signed division (49_m_ext.md R304, R306, R309) -/

/-- The one pair of operands whose exact quotient, 2^31, has no signed reading (R309). -/
def divisionOverflows (a b : Word) : Prop := a = 0x80000000#32 ∧ b = 0xFFFFFFFF#32

/-- A word is known by its signed reading. -/
theorem toInt_eq_iff_of_toInt_eq {c : Word} {z : Int} (hc : c.toInt = z) (v : Word) : v.toInt = z ↔ v = c := by
  rw [← hc, BitVec.toInt_inj]

theorem divisionOverflows_iff (a b : Word) : divisionOverflows a b ↔ a.toInt = -2 ^ 31 ∧ b.toInt = -1 :=
  and_congr (toInt_eq_iff_of_toInt_eq (by decide) a).symm (toInt_eq_iff_of_toInt_eq (by decide) b).symm

theorem divSigned_zero (a : Word) : divSigned a 0#32 = 0xFFFFFFFF#32 := if_pos rfl

theorem remSigned_zero (a : Word) : remSigned a 0#32 = a := if_pos rfl

theorem divSigned_of_overflows {a b : Word} (h : divisionOverflows a b) : divSigned a b = 0x80000000#32 := by
  obtain ⟨rfl, rfl⟩ := h
  rfl

theorem remSigned_of_overflows {a b : Word} (h : divisionOverflows a b) : remSigned a b = 0#32 := by
  obtain ⟨rfl, rfl⟩ := h
  rfl

/-- Where neither case of R309 applies, the quotient rounded toward zero. -/
theorem divSigned_of_fits {a b : Word} (hb : b ≠ 0#32) (hover : ¬ divisionOverflows a b) :
    divSigned a b = BitVec.ofInt 32 (a.toInt.tdiv b.toInt) := (if_neg hb).trans (if_neg hover)

/-- Where neither case of R309 applies, what the quotient leaves of the dividend. -/
theorem remSigned_of_fits {a b : Word} (hb : b ≠ 0#32) (hover : ¬ divisionOverflows a b) :
    remSigned a b = BitVec.ofInt 32 (a.toInt - b.toInt * a.toInt.tdiv b.toInt) :=
  (if_neg hb).trans (if_neg hover)

/-- Only the overflow of R309 has a quotient that does not fit a word. -/
theorem toInt_divSigned {a b : Word} (hb : b ≠ 0#32) (hover : ¬ divisionOverflows a b) :
    (divSigned a b).toInt = a.toInt.tdiv b.toInt := by
  have hsdiv : divSigned a b = a.sdiv b := by
    rw [divSigned_of_fits hb hover, ← BitVec.toInt_inj, BitVec.toInt_ofInt, BitVec.toInt_sdiv]
  rw [hsdiv]
  exact BitVec.toInt_sdiv_of_ne_or_ne a b (not_and_or.mp hover)

/-- The remainder is smaller than the divisor, so it always fits a word. -/
theorem toInt_remSigned {a b : Word} (hb : b ≠ 0#32) (hover : ¬ divisionOverflows a b) :
    (remSigned a b).toInt = a.toInt.tmod b.toInt := by
  rw [remSigned_of_fits hb hover, ← Int.tmod_def, ← BitVec.toInt_srem, BitVec.ofInt_toInt]

/-- A remainder that is not zero has the sign of the dividend (R306). -/
theorem tmod_neg_iff {a b : Int} (hne : a.tmod b ≠ 0) : a.tmod b < 0 ↔ a < 0 := by
  have hsign : (a.tmod b).sign = a.sign := by
    rw [Int.sign_tmod, if_neg (mt Int.tmod_eq_zero_of_dvd hne)]
  rw [← Int.sign_eq_neg_one_iff_neg, hsign, Int.sign_eq_neg_one_iff_neg]

/-- Settles O50: the two cases of R309, else the quotient toward zero and its remainder over the integers. -/
theorem signedDivision : Obligations.SignedDivision := by
  intro s rd rs1 rs2
  refine ⟨encodedAs_formatM rfl rfl rfl, encodedAs_formatM rfl rfl rfl, ?_⟩
  rintro _ _ rfl rfl
  refine registerResults_of_exec (divSigned (s.readReg rs1) (s.readReg rs2))
    (remSigned (s.readReg rs1) (s.readReg rs2)) rfl rfl
    ⟨fun hzero => ?zero, fun hmin hneg => ?overflow, fun hne hover => ?ordinary⟩
  case zero =>
    have hb : s.readReg rs2 = 0#32 := BitVec.eq_of_toInt_eq hzero
    rw [hb, divSigned_zero, remSigned_zero]
    exact ⟨rfl, rfl⟩
  case overflow =>
    have hover := (divisionOverflows_iff ..).mpr ⟨hmin, hneg⟩
    exact ⟨divSigned_of_overflows hover, remSigned_of_overflows hover⟩
  case ordinary =>
    have hb : s.readReg rs2 ≠ 0#32 := fun h => hne (congrArg BitVec.toInt h)
    have hfits := mt (divisionOverflows_iff ..).mp hover
    rw [toInt_divSigned hb hfits, toInt_remSigned hb hfits]
    refine ⟨rfl, rfl, (Int.mul_tdiv_add_tmod ..).symm, ?_, tmod_neg_iff⟩
    rw [Int.natAbs_tmod]
    exact Nat.mod_lt _ (Int.natAbs_pos.mpr hne)

end Sys2Proof.Machine
end

section
/-! The statements of 30_encoding.md: the decoder and the encoder undo each other, and both follow the printed table.
The word of every instruction means it (`encodedAs_encode`), and the fields that select an instruction are those of its
word (`isWordOf_of_decodeFields`); the other statements are read off these two. -/

namespace Sys2Proof.Machine

/-! ### The word of an instruction means it, format by format (R121 to R128, R131) -/

/-- The I format of the encoder: the immediate is split in two and joined again. -/
theorem encodedAs_encodeI {f3 : BitVec 3} {op : BitVec 7} {rd rs1 : RegNum} {imm : BitVec 12} (i : BitVec 12 → Instr)
    (hM : (i imm).isM = false)
    (h : ∀ hasM f7 rs2, decodeFields hasM ⟨f7, rs2, rs1, f3, rd, op⟩ = some (i (f7 ++ rs2))) :
    EncodedAs (encodeI f3 op rd rs1 imm) (i imm) :=
  encodedAs_formatR hM fun hasM => by rw [h, imm12_join]

/-- The S format: the two halves of the immediate stand apart. -/
theorem encodedAs_encodeS {f3 : BitVec 3} {op : BitVec 7} {rs1 rs2 : RegNum} {imm : BitVec 12} (i : BitVec 12 → Instr)
    (hM : (i imm).isM = false)
    (h : ∀ hasM f7 rd, decodeFields hasM ⟨f7, rs2, rs1, f3, rd, op⟩ = some (i (f7 ++ rd))) :
    EncodedAs (encodeS f3 op rs1 rs2 imm) (i imm) :=
  encodedAs_formatR hM fun hasM => by rw [h, imm12_join]

/-- The B format: an even offset is joined as it was split. -/
theorem encodedAs_encodeB {f3 : BitVec 3} {op : BitVec 7} {rs1 rs2 : RegNum} {o : BitVec 13}
    (heven : (!o.getLsbD 0) = true) (i : BitVec 13 → Instr) (hM : (i o).isM = false)
    (h : ∀ hasM f7 rd, decodeFields hasM ⟨f7, rs2, rs1, f3, rd, op⟩ =
      some (i (Fields.immB ⟨f7, rs2, rs1, f3, rd, op⟩))) :
    EncodedAs (encodeB f3 op rs1 rs2 o) (i o) :=
  encodedAs_formatR hM fun hasM => by rw [h, immB_join o (by simpa using heven)]

/-- The U format. -/
theorem encodedAs_encodeU {op : BitVec 7} {rd : RegNum} {u : BitVec 20} (i : BitVec 20 → Instr)
    (hM : (i u).isM = false)
    (h : ∀ hasM f7 rs2 rs1 f3, decodeFields hasM ⟨f7, rs2, rs1, f3, rd, op⟩ =
      some (i (Fields.immU ⟨f7, rs2, rs1, f3, rd, op⟩))) :
    EncodedAs (encodeU op rd u) (i u) :=
  encodedAs_formatR hM fun hasM => by rw [h, immU_join]

/-- The J format: the U layout of a permuted even offset. -/
theorem encodedAs_encodeJ {op : BitVec 7} {rd : RegNum} {o : BitVec 21} (heven : (!o.getLsbD 0) = true)
    (i : BitVec 21 → Instr) (hM : (i o).isM = false)
    (h : ∀ hasM f7 rs2 rs1 f3, decodeFields hasM ⟨f7, rs2, rs1, f3, rd, op⟩ =
      some (i (Fields.immJ ⟨f7, rs2, rs1, f3, rd, op⟩))) :
    EncodedAs (encodeJ op rd o) (i o) :=
  encodedAs_formatR hM fun hasM => by rw [h, immJ_join o (by simpa using heven) _ (immU_join ..)]

/-- The encoder's word means the instruction, in every configuration (D41). -/
theorem encodedAs_encode {i : Instr} (heven : i.offsetEven = true) : EncodedAs (encode i) i := by
  cases i with
  | add | sub | xor | or | and | sll | srl | sra | slt | sltu | slli | srli | srai | mret | wfi | ecall | ebreak =>
    exact encodedAs_formatR rfl fun _ => rfl
  | mul | mulhu | mulh | mulhsu | div | divu | rem | remu => exact encodedAs_formatM rfl rfl rfl
  | addi rd rs1 => exact encodedAs_encodeI (.addi rd rs1) rfl fun _ _ _ => rfl
  | xori rd rs1 => exact encodedAs_encodeI (.xori rd rs1) rfl fun _ _ _ => rfl
  | ori rd rs1 => exact encodedAs_encodeI (.ori rd rs1) rfl fun _ _ _ => rfl
  | andi rd rs1 => exact encodedAs_encodeI (.andi rd rs1) rfl fun _ _ _ => rfl
  | slti rd rs1 => exact encodedAs_encodeI (.slti rd rs1) rfl fun _ _ _ => rfl
  | sltiu rd rs1 => exact encodedAs_encodeI (.sltiu rd rs1) rfl fun _ _ _ => rfl
  | lb rd rs1 => exact encodedAs_encodeI (.lb rd rs1) rfl fun _ _ _ => rfl
  | lh rd rs1 => exact encodedAs_encodeI (.lh rd rs1) rfl fun _ _ _ => rfl
  | lw rd rs1 => exact encodedAs_encodeI (.lw rd rs1) rfl fun _ _ _ => rfl
  | lbu rd rs1 => exact encodedAs_encodeI (.lbu rd rs1) rfl fun _ _ _ => rfl
  | lhu rd rs1 => exact encodedAs_encodeI (.lhu rd rs1) rfl fun _ _ _ => rfl
  | jalr rd rs1 => exact encodedAs_encodeI (.jalr rd rs1) rfl fun _ _ _ => rfl
  | csrrw rd csr rs1 => exact encodedAs_encodeI (.csrrw rd · rs1) rfl fun _ _ _ => rfl
  | csrrs rd csr rs1 => exact encodedAs_encodeI (.csrrs rd · rs1) rfl fun _ _ _ => rfl
  | csrrc rd csr rs1 => exact encodedAs_encodeI (.csrrc rd · rs1) rfl fun _ _ _ => rfl
  | csrrwi rd csr uimm => exact encodedAs_encodeI (.csrrwi rd · uimm) rfl fun _ _ _ => rfl
  | csrrsi rd csr uimm => exact encodedAs_encodeI (.csrrsi rd · uimm) rfl fun _ _ _ => rfl
  | csrrci rd csr uimm => exact encodedAs_encodeI (.csrrci rd · uimm) rfl fun _ _ _ => rfl
  | sb rs2 rs1 => exact encodedAs_encodeS (.sb rs2 rs1) rfl fun _ _ _ => rfl
  | sh rs2 rs1 => exact encodedAs_encodeS (.sh rs2 rs1) rfl fun _ _ _ => rfl
  | sw rs2 rs1 => exact encodedAs_encodeS (.sw rs2 rs1) rfl fun _ _ _ => rfl
  | beq rs1 rs2 => exact encodedAs_encodeB heven (.beq rs1 rs2) rfl fun _ _ _ => rfl
  | bne rs1 rs2 => exact encodedAs_encodeB heven (.bne rs1 rs2) rfl fun _ _ _ => rfl
  | blt rs1 rs2 => exact encodedAs_encodeB heven (.blt rs1 rs2) rfl fun _ _ _ => rfl
  | bge rs1 rs2 => exact encodedAs_encodeB heven (.bge rs1 rs2) rfl fun _ _ _ => rfl
  | bltu rs1 rs2 => exact encodedAs_encodeB heven (.bltu rs1 rs2) rfl fun _ _ _ => rfl
  | bgeu rs1 rs2 => exact encodedAs_encodeB heven (.bgeu rs1 rs2) rfl fun _ _ _ => rfl
  | jal rd => exact encodedAs_encodeJ heven (.jal rd) rfl fun _ _ _ _ _ => rfl
  | lui rd => exact encodedAs_encodeU (.lui rd) rfl fun _ _ _ _ _ => rfl
  | auipc rd => exact encodedAs_encodeU (.auipc rd) rfl fun _ _ _ _ _ => rfl
  | fence fm pred succ rs1 rd =>
    obtain ⟨hfm, hpred, hsucc⟩ := fence_split fm pred succ
    have h := encodedAs_encodeI (f3 := 0b000) (op := 0x0F) (rd := rd) (rs1 := rs1) (imm := fm ++ pred ++ succ)
      (fun x => .fence (x.extractLsb' 8 4) (x.extractLsb' 4 4) (x.extractLsb' 0 4) rs1 rd) rfl fun _ _ _ => rfl
    rwa [hfm, hpred, hsucc] at h

/-- What is well-formed: the registers of R134, the rows of R135, the even offsets of R128. -/
theorem wf_iff {rve hasM : Bool} {i : Instr} :
    i.wf rve hasM = true ↔ i.regsOk rve = true ∧ (hasM || !i.isM) = true ∧ i.offsetEven = true := by
  simp only [Instr.wf, Bool.and_eq_true, and_assoc]

/-- The word of an instruction decodes by its registers alone, where its row exists (R134, R135). -/
theorem decode_encode {hasM : Bool} {i : Instr} (rve : Bool) (hrow : (hasM || !i.isM) = true)
    (heven : i.offsetEven = true) :
    decode rve hasM (encode i) = if i.regsOk rve then .ok i else .error .rveRegisterOutOfRange := by
  have hnot : ¬ (i.isM && !hasM) = true := by revert hrow; cases i.isM <;> cases hasM <;> decide
  rw [encodedAs_encode heven rve hasM, if_neg hnot]

/-- Settles O1: the word of an instruction means it wherever its row, its registers and its offset are there. -/
theorem decodeOfEncode : Obligations.DecodeOfEncode := by
  intro rve hasM i hwf
  obtain ⟨hregs, hrow, heven⟩ := wf_iff.mp hwf
  rw [decode_encode rve hrow heven, if_pos hregs]

/-! ### The fields that select an instruction are those of its word -/

/-- Six fields make the word of the instruction, whose offset is even and whose row exists (R121 to R128, R135). -/
structure IsWordOf (hasM : Bool) (f : Fields) (i : Instr) : Prop where
  word : wordOf f = encode i
  row : (hasM || !i.isM) = true
  even : i.offsetEven = true

variable {hasM : Bool} {f : Fields} {i : Instr}

section Formats

variable {f7 : BitVec 7} {f3 : BitVec 3} {op : BitVec 7} (h7 : f.funct7 = f7) (h3 : f.funct3 = f3)
  (ho : f.opcode = op)

include h3 ho

include h7 in
theorem wordOf_eq_encodeR : wordOf f = encodeR f7 f3 op f.rd f.rs1 f.rs2 := by
  subst h7 h3 ho; rfl

theorem wordOf_eq_encodeI : wordOf f = encodeI f3 op f.rd f.rs1 f.immI := by
  subst h3 ho
  rw [encodeI, Fields.immI, imm12_high, imm12_low]
  rfl

theorem wordOf_eq_encodeS : wordOf f = encodeS f3 op f.rs1 f.rs2 f.immS := by
  subst h3 ho
  rw [encodeS, Fields.immS, imm12_high, imm12_low]
  rfl

theorem wordOf_eq_encodeB : wordOf f = encodeB f3 op f.rs1 f.rs2 f.immB := by
  subst h3 ho
  rw [encodeB, immB_high, immB_low]
  rfl

omit h3

theorem wordOf_eq_encodeU : wordOf f = encodeU op f.rd f.immU := by
  subst ho
  obtain ⟨h7, h2, h1, h3⟩ := immU_split f
  rw [encodeU, h7, h2, h1, h3]
  rfl

theorem wordOf_eq_encodeJ : wordOf f = encodeJ op f.rd f.immJ := by
  rw [encodeJ, immJ_split, wordOf_eq_encodeU ho]

end Formats

/-! The rows of one opcode: in each branch the match fixes `funct3`, the format gives the word. -/

theorem isWordOf_of_decodeOp (h7 : f.funct7 = 0b0000000#7) (ho : f.opcode = 0x33#7) (h : decodeOp f = some i) :
    IsWordOf hasM f i := by
  unfold decodeOp at h
  split at h <;> cases h <;> exact ⟨wordOf_eq_encodeR h7 ‹_› ho, Bool.or_true _, rfl⟩

theorem isWordOf_of_decodeOpAlt (h7 : f.funct7 = 0b0100000#7) (ho : f.opcode = 0x33#7)
    (h : decodeOpAlt f = some i) : IsWordOf hasM f i := by
  unfold decodeOpAlt at h
  split at h <;> cases h <;> exact ⟨wordOf_eq_encodeR h7 ‹_› ho, Bool.or_true _, rfl⟩

theorem isWordOf_of_decodeOpM (h7 : f.funct7 = 0b0000001#7) (hM : hasM = true) (ho : f.opcode = 0x33#7)
    (h : decodeOpM f = some i) : IsWordOf hasM f i := by
  subst hM
  unfold decodeOpM at h
  split at h <;> cases h <;> exact ⟨wordOf_eq_encodeR h7 ‹_› ho, rfl, rfl⟩

theorem isWordOf_of_decodeOpImm (ho : f.opcode = 0x13#7) (h : decodeOpImm f = some i) : IsWordOf hasM f i := by
  unfold decodeOpImm at h
  split at h
  case h_2 h3 =>
    split at h
    case isTrue h7 => cases h; exact ⟨wordOf_eq_encodeR h7 h3 ho, Bool.or_true _, rfl⟩
    case isFalse => cases h
  case h_6 h3 =>
    split at h
    case isTrue h7 => cases h; exact ⟨wordOf_eq_encodeR h7 h3 ho, Bool.or_true _, rfl⟩
    case isFalse =>
      split at h
      case isTrue h7 => cases h; exact ⟨wordOf_eq_encodeR h7 h3 ho, Bool.or_true _, rfl⟩
      case isFalse => cases h
  all_goals cases h; exact ⟨wordOf_eq_encodeI ‹_› ho, Bool.or_true _, rfl⟩

theorem isWordOf_of_decodeLoad (ho : f.opcode = 0x03#7) (h : decodeLoad f = some i) : IsWordOf hasM f i := by
  unfold decodeLoad at h
  split at h <;> cases h <;> exact ⟨wordOf_eq_encodeI ‹_› ho, Bool.or_true _, rfl⟩

theorem isWordOf_of_decodeStore (ho : f.opcode = 0x23#7) (h : decodeStore f = some i) : IsWordOf hasM f i := by
  unfold decodeStore at h
  split at h <;> cases h <;> exact ⟨wordOf_eq_encodeS ‹_› ho, Bool.or_true _, rfl⟩

theorem isWordOf_of_decodeBranch (ho : f.opcode = 0x63#7) (h : decodeBranch f = some i) : IsWordOf hasM f i := by
  unfold decodeBranch at h
  split at h <;> cases h <;>
    exact ⟨wordOf_eq_encodeB ‹_› ho, Bool.or_true _, (Bool.not_eq_true' _).mpr (immB_even f)⟩

theorem isWordOf_of_decodeSystemFixed (h3 : f.funct3 = 0b000#3) (ho : f.opcode = 0x73#7)
    (h : decodeSystemFixed f = some i) : IsWordOf hasM f i := by
  unfold decodeSystemFixed at h
  split at h
  case isTrue hzero =>
    obtain ⟨h1, hd⟩ := hzero
    have hword : ∀ imm, f.immI = imm → wordOf f = encodeI 0b000 0x73 0 0 imm := by
      rintro imm rfl
      rw [wordOf_eq_encodeI h3 ho, h1, hd]
      rfl
    split at h <;> cases h <;> exact ⟨hword _ ‹_›, Bool.or_true _, rfl⟩
  case isFalse => cases h

theorem isWordOf_of_decodeSystem (ho : f.opcode = 0x73#7) (h : decodeSystem f = some i) : IsWordOf hasM f i := by
  unfold decodeSystem at h
  split at h
  case h_1 h3 => exact isWordOf_of_decodeSystemFixed h3 ho h
  all_goals cases h <;> exact ⟨wordOf_eq_encodeI ‹_› ho, Bool.or_true _, rfl⟩

/-- Whatever row the fields select, they are the fields of the instruction's word. -/
theorem isWordOf_of_decodeFields (h : decodeFields hasM f = some i) : IsWordOf hasM f i := by
  unfold decodeFields at h
  split at h
  case h_1 ho => cases h; exact ⟨wordOf_eq_encodeU ho, Bool.or_true _, rfl⟩
  case h_2 ho => cases h; exact ⟨wordOf_eq_encodeU ho, Bool.or_true _, rfl⟩
  case h_3 ho => cases h; exact ⟨wordOf_eq_encodeJ ho, Bool.or_true _, (Bool.not_eq_true' _).mpr (immJ_even f)⟩
  case h_4 ho =>
    split at h
    case isTrue h3 => cases h; exact ⟨wordOf_eq_encodeI h3 ho, Bool.or_true _, rfl⟩
    case isFalse => cases h
  case h_5 ho => exact isWordOf_of_decodeBranch ho h
  case h_6 ho => exact isWordOf_of_decodeLoad ho h
  case h_7 ho => exact isWordOf_of_decodeStore ho h
  case h_8 ho => exact isWordOf_of_decodeOpImm ho h
  case h_9 ho =>
    split at h
    case isTrue h7 => exact isWordOf_of_decodeOp h7 ho h
    case isFalse =>
      split at h
      case isTrue h7 => exact isWordOf_of_decodeOpAlt h7 ho h
      case isFalse =>
        split at h
        case isTrue hM => exact isWordOf_of_decodeOpM hM.1 hM.2 ho h
        case isFalse => cases h
  case h_10 ho => exact isWordOf_of_decodeSystem ho h
  case h_11 ho =>
    split at h
    case isTrue h3 =>
      cases h
      have hfence := congrArg (encodeI 0b000 0x0F f.rd f.rs1) (fence_join f.immI)
      exact ⟨(wordOf_eq_encodeI h3 ho).trans hfence.symm, Bool.or_true _, rfl⟩
    case isFalse => cases h
  case h_12 => cases h

/-- Settles O2: the fields that select the row are those of the instruction's word. -/
theorem encodeOfDecode : Obligations.EncodeOfDecode := by
  intro rve hasM w i h
  obtain ⟨hfields, hregs⟩ := decode_ok.mp h
  obtain ⟨hword, hrow, heven⟩ := isWordOf_of_decodeFields hfields
  exact ⟨hword.symm.trans (wordOf_fieldsOf w), wf_iff.mpr ⟨hregs, hrow, heven⟩⟩

/-! ### The printed table (R130, R131, R133) -/

/-- The word of every instruction agrees with its row. -/
theorem encode_agrees_row (i : Instr) : encode i &&& i.row.mask = i.row.pattern := by
  cases i with
  | add => exact Laws.RowMatch.add ..
  | sub => exact Laws.RowMatch.sub ..
  | xor => exact Laws.RowMatch.xor ..
  | or => exact Laws.RowMatch.or ..
  | and => exact Laws.RowMatch.and ..
  | sll => exact Laws.RowMatch.sll ..
  | srl => exact Laws.RowMatch.srl ..
  | sra => exact Laws.RowMatch.sra ..
  | slt => exact Laws.RowMatch.slt ..
  | sltu => exact Laws.RowMatch.sltu ..
  | addi => exact Laws.RowMatch.addi ..
  | xori => exact Laws.RowMatch.xori ..
  | ori => exact Laws.RowMatch.ori ..
  | andi => exact Laws.RowMatch.andi ..
  | slli => exact Laws.RowMatch.slli ..
  | srli => exact Laws.RowMatch.srli ..
  | srai => exact Laws.RowMatch.srai ..
  | slti => exact Laws.RowMatch.slti ..
  | sltiu => exact Laws.RowMatch.sltiu ..
  | lb => exact Laws.RowMatch.lb ..
  | lh => exact Laws.RowMatch.lh ..
  | lw => exact Laws.RowMatch.lw ..
  | lbu => exact Laws.RowMatch.lbu ..
  | lhu => exact Laws.RowMatch.lhu ..
  | sb => exact Laws.RowMatch.sb ..
  | sh => exact Laws.RowMatch.sh ..
  | sw => exact Laws.RowMatch.sw ..
  | beq => exact Laws.RowMatch.beq ..
  | bne => exact Laws.RowMatch.bne ..
  | blt => exact Laws.RowMatch.blt ..
  | bge => exact Laws.RowMatch.bge ..
  | bltu => exact Laws.RowMatch.bltu ..
  | bgeu => exact Laws.RowMatch.bgeu ..
  | jal => exact Laws.RowMatch.jal ..
  | jalr => exact Laws.RowMatch.jalr ..
  | lui => exact Laws.RowMatch.lui ..
  | auipc => exact Laws.RowMatch.auipc ..
  | mret => exact Laws.RowMatch.mret
  | wfi => exact Laws.RowMatch.wfi
  | csrrw => exact Laws.RowMatch.csrrw ..
  | csrrs => exact Laws.RowMatch.csrrs ..
  | csrrc => exact Laws.RowMatch.csrrc ..
  | csrrwi => exact Laws.RowMatch.csrrwi ..
  | csrrsi => exact Laws.RowMatch.csrrsi ..
  | csrrci => exact Laws.RowMatch.csrrci ..
  | mul => exact Laws.RowMatch.mul ..
  | mulhu => exact Laws.RowMatch.mulhu ..
  | mulh => exact Laws.RowMatch.mulh ..
  | mulhsu => exact Laws.RowMatch.mulhsu ..
  | div => exact Laws.RowMatch.div ..
  | divu => exact Laws.RowMatch.divu ..
  | rem => exact Laws.RowMatch.rem ..
  | remu => exact Laws.RowMatch.remu ..
  | fence => exact Laws.RowMatch.fence ..
  | ecall => exact Laws.RowMatch.ecall
  | ebreak => exact Laws.RowMatch.ebreak

/-- A mask of the table keeps whole fields: where it is all ones, the field of the word is the pattern's. -/
theorem field_of_ones {n : Nat} {x m p : BitVec n} (h : x &&& m = p) (hm : m = BitVec.allOnes n) : x = p := by
  rw [← h, hm, BitVec.and_allOnes]

/-- The instruction `j` stands in the row of `i`, and its word is `w`. -/
structure InstrOfRow (w : Word) (i j : Instr) : Prop where
  word : encode j = w
  row : j.row = i.row
  isM : j.isM = i.isM
  even : j.offsetEven = true

/-! A word that agrees with a row is the word of an instruction of that row: its operands are read off the fields that
the mask leaves open. -/

section Agrees

variable {w p : Word} {f7 : BitVec 7} {f3 : BitVec 3} {op : BitVec 7} {i : Instr}

theorem instrOfRow_formatR (mk : RegNum → RegNum → RegNum → Instr) (hrow : i.row = ⟨p, 0xFE00707F#32⟩)
    (hmk : ∀ rd rs1 rs2, encode (mk rd rs1 rs2) = encodeR f7 f3 op rd rs1 rs2 ∧ (mk rd rs1 rs2).row = i.row ∧
      (mk rd rs1 rs2).isM = i.isM ∧ (mk rd rs1 rs2).offsetEven = true)
    (hp : fieldsOf p = ⟨f7, 0, 0, f3, 0, op⟩) (h : w &&& i.row.mask = i.row.pattern) : ∃ j, InstrOfRow w i j := by
  simp only [hrow] at h
  have hf := congrArg fieldsOf h
  rw [fieldsOf_and, hp] at hf
  obtain ⟨h7, -, -, h3, -, ho⟩ := Fields.mk.inj hf
  have hword := wordOf_eq_encodeR (field_of_ones h7 (by decide)) (field_of_ones h3 (by decide))
    (field_of_ones ho (by decide))
  obtain ⟨henc, hrow', hM, heven⟩ := hmk (fieldsOf w).rd (fieldsOf w).rs1 (fieldsOf w).rs2
  exact ⟨_, henc.trans (hword.symm.trans (wordOf_fieldsOf w)), hrow', hM, heven⟩

/-- A word that agrees with a row which fixes `funct3` and the opcode. -/
theorem fields_of_agrees_funct3 (hrow : i.row = ⟨p, 0x0000707F#32⟩) (hp : fieldsOf p = ⟨0, 0, 0, f3, 0, op⟩)
    (h : w &&& i.row.mask = i.row.pattern) : (fieldsOf w).funct3 = f3 ∧ (fieldsOf w).opcode = op := by
  simp only [hrow] at h
  have hf := congrArg fieldsOf h
  rw [fieldsOf_and, hp] at hf
  obtain ⟨-, -, -, h3, -, ho⟩ := Fields.mk.inj hf
  exact ⟨field_of_ones h3 (by decide), field_of_ones ho (by decide)⟩

theorem instrOfRow_formatI (mk : RegNum → RegNum → BitVec 12 → Instr) (hrow : i.row = ⟨p, 0x0000707F#32⟩)
    (hmk : ∀ rd rs1 imm, encode (mk rd rs1 imm) = encodeI f3 op rd rs1 imm ∧ (mk rd rs1 imm).row = i.row ∧
      (mk rd rs1 imm).isM = i.isM ∧ (mk rd rs1 imm).offsetEven = true)
    (hp : fieldsOf p = ⟨0, 0, 0, f3, 0, op⟩) (h : w &&& i.row.mask = i.row.pattern) : ∃ j, InstrOfRow w i j := by
  obtain ⟨h3, ho⟩ := fields_of_agrees_funct3 hrow hp h
  obtain ⟨henc, hrow', hM, heven⟩ := hmk (fieldsOf w).rd (fieldsOf w).rs1 (fieldsOf w).immI
  exact ⟨_, henc.trans ((wordOf_eq_encodeI h3 ho).symm.trans (wordOf_fieldsOf w)), hrow', hM, heven⟩

theorem instrOfRow_formatS (mk : RegNum → RegNum → BitVec 12 → Instr) (hrow : i.row = ⟨p, 0x0000707F#32⟩)
    (hmk : ∀ rs2 rs1 imm, encode (mk rs2 rs1 imm) = encodeS f3 op rs1 rs2 imm ∧ (mk rs2 rs1 imm).row = i.row ∧
      (mk rs2 rs1 imm).isM = i.isM ∧ (mk rs2 rs1 imm).offsetEven = true)
    (hp : fieldsOf p = ⟨0, 0, 0, f3, 0, op⟩) (h : w &&& i.row.mask = i.row.pattern) : ∃ j, InstrOfRow w i j := by
  obtain ⟨h3, ho⟩ := fields_of_agrees_funct3 hrow hp h
  obtain ⟨henc, hrow', hM, heven⟩ := hmk (fieldsOf w).rs2 (fieldsOf w).rs1 (fieldsOf w).immS
  exact ⟨_, henc.trans ((wordOf_eq_encodeS h3 ho).symm.trans (wordOf_fieldsOf w)), hrow', hM, heven⟩

theorem instrOfRow_formatB (mk : RegNum → RegNum → BitVec 13 → Instr) (hrow : i.row = ⟨p, 0x0000707F#32⟩)
    (hmk : ∀ rs1 rs2 o, (!o.getLsbD 0) = true → encode (mk rs1 rs2 o) = encodeB f3 op rs1 rs2 o ∧
      (mk rs1 rs2 o).row = i.row ∧ (mk rs1 rs2 o).isM = i.isM ∧ (mk rs1 rs2 o).offsetEven = true)
    (hp : fieldsOf p = ⟨0, 0, 0, f3, 0, op⟩) (h : w &&& i.row.mask = i.row.pattern) : ∃ j, InstrOfRow w i j := by
  obtain ⟨h3, ho⟩ := fields_of_agrees_funct3 hrow hp h
  obtain ⟨henc, hrow', hM, heven⟩ := hmk (fieldsOf w).rs1 (fieldsOf w).rs2 (fieldsOf w).immB
    ((Bool.not_eq_true' _).mpr (immB_even _))
  exact ⟨_, henc.trans ((wordOf_eq_encodeB h3 ho).symm.trans (wordOf_fieldsOf w)), hrow', hM, heven⟩

/-- A word that agrees with a row which fixes the opcode alone. -/
theorem opcode_of_agrees (hrow : i.row = ⟨p, 0x0000007F#32⟩) (hp : fieldsOf p = ⟨0, 0, 0, 0, 0, op⟩)
    (h : w &&& i.row.mask = i.row.pattern) : (fieldsOf w).opcode = op := by
  simp only [hrow] at h
  have hf := congrArg fieldsOf h
  rw [fieldsOf_and, hp] at hf
  obtain ⟨-, -, -, -, -, ho⟩ := Fields.mk.inj hf
  exact field_of_ones ho (by decide)

theorem instrOfRow_formatU (mk : RegNum → BitVec 20 → Instr) (hrow : i.row = ⟨p, 0x0000007F#32⟩)
    (hmk : ∀ rd u, encode (mk rd u) = encodeU op rd u ∧ (mk rd u).row = i.row ∧ (mk rd u).isM = i.isM ∧
      (mk rd u).offsetEven = true)
    (hp : fieldsOf p = ⟨0, 0, 0, 0, 0, op⟩) (h : w &&& i.row.mask = i.row.pattern) : ∃ j, InstrOfRow w i j := by
  have hword := wordOf_eq_encodeU (opcode_of_agrees hrow hp h)
  obtain ⟨henc, hrow', hM, heven⟩ := hmk (fieldsOf w).rd (fieldsOf w).immU
  exact ⟨_, henc.trans (hword.symm.trans (wordOf_fieldsOf w)), hrow', hM, heven⟩

theorem instrOfRow_formatJ (mk : RegNum → BitVec 21 → Instr) (hrow : i.row = ⟨p, 0x0000007F#32⟩)
    (hmk : ∀ rd o, (!o.getLsbD 0) = true → encode (mk rd o) = encodeJ op rd o ∧ (mk rd o).row = i.row ∧
      (mk rd o).isM = i.isM ∧ (mk rd o).offsetEven = true)
    (hp : fieldsOf p = ⟨0, 0, 0, 0, 0, op⟩) (h : w &&& i.row.mask = i.row.pattern) : ∃ j, InstrOfRow w i j := by
  have hword := wordOf_eq_encodeJ (opcode_of_agrees hrow hp h)
  obtain ⟨henc, hrow', hM, heven⟩ := hmk (fieldsOf w).rd (fieldsOf w).immJ ((Bool.not_eq_true' _).mpr (immJ_even _))
  exact ⟨_, henc.trans (hword.symm.trans (wordOf_fieldsOf w)), hrow', hM, heven⟩

end Agrees

/-- A word that agrees with a row is the word of an instruction of that row. -/
theorem exists_instrOfRow {w : Word} {i : Instr} (h : w &&& i.row.mask = i.row.pattern) : ∃ j, InstrOfRow w i j := by
  cases i with
  | add => exact instrOfRow_formatR .add rfl (fun _ _ _ => ⟨rfl, rfl, rfl, rfl⟩) (by decide) h
  | sub => exact instrOfRow_formatR .sub rfl (fun _ _ _ => ⟨rfl, rfl, rfl, rfl⟩) (by decide) h
  | xor => exact instrOfRow_formatR .xor rfl (fun _ _ _ => ⟨rfl, rfl, rfl, rfl⟩) (by decide) h
  | or => exact instrOfRow_formatR .or rfl (fun _ _ _ => ⟨rfl, rfl, rfl, rfl⟩) (by decide) h
  | and => exact instrOfRow_formatR .and rfl (fun _ _ _ => ⟨rfl, rfl, rfl, rfl⟩) (by decide) h
  | sll => exact instrOfRow_formatR .sll rfl (fun _ _ _ => ⟨rfl, rfl, rfl, rfl⟩) (by decide) h
  | srl => exact instrOfRow_formatR .srl rfl (fun _ _ _ => ⟨rfl, rfl, rfl, rfl⟩) (by decide) h
  | sra => exact instrOfRow_formatR .sra rfl (fun _ _ _ => ⟨rfl, rfl, rfl, rfl⟩) (by decide) h
  | slt => exact instrOfRow_formatR .slt rfl (fun _ _ _ => ⟨rfl, rfl, rfl, rfl⟩) (by decide) h
  | sltu => exact instrOfRow_formatR .sltu rfl (fun _ _ _ => ⟨rfl, rfl, rfl, rfl⟩) (by decide) h
  | addi => exact instrOfRow_formatI .addi rfl (fun _ _ _ => ⟨rfl, rfl, rfl, rfl⟩) (by decide) h
  | xori => exact instrOfRow_formatI .xori rfl (fun _ _ _ => ⟨rfl, rfl, rfl, rfl⟩) (by decide) h
  | ori => exact instrOfRow_formatI .ori rfl (fun _ _ _ => ⟨rfl, rfl, rfl, rfl⟩) (by decide) h
  | andi => exact instrOfRow_formatI .andi rfl (fun _ _ _ => ⟨rfl, rfl, rfl, rfl⟩) (by decide) h
  | slli => exact instrOfRow_formatR .slli rfl (fun _ _ _ => ⟨rfl, rfl, rfl, rfl⟩) (by decide) h
  | srli => exact instrOfRow_formatR .srli rfl (fun _ _ _ => ⟨rfl, rfl, rfl, rfl⟩) (by decide) h
  | srai => exact instrOfRow_formatR .srai rfl (fun _ _ _ => ⟨rfl, rfl, rfl, rfl⟩) (by decide) h
  | slti => exact instrOfRow_formatI .slti rfl (fun _ _ _ => ⟨rfl, rfl, rfl, rfl⟩) (by decide) h
  | sltiu => exact instrOfRow_formatI .sltiu rfl (fun _ _ _ => ⟨rfl, rfl, rfl, rfl⟩) (by decide) h
  | lb => exact instrOfRow_formatI .lb rfl (fun _ _ _ => ⟨rfl, rfl, rfl, rfl⟩) (by decide) h
  | lh => exact instrOfRow_formatI .lh rfl (fun _ _ _ => ⟨rfl, rfl, rfl, rfl⟩) (by decide) h
  | lw => exact instrOfRow_formatI .lw rfl (fun _ _ _ => ⟨rfl, rfl, rfl, rfl⟩) (by decide) h
  | lbu => exact instrOfRow_formatI .lbu rfl (fun _ _ _ => ⟨rfl, rfl, rfl, rfl⟩) (by decide) h
  | lhu => exact instrOfRow_formatI .lhu rfl (fun _ _ _ => ⟨rfl, rfl, rfl, rfl⟩) (by decide) h
  | sb => exact instrOfRow_formatS .sb rfl (fun _ _ _ => ⟨rfl, rfl, rfl, rfl⟩) (by decide) h
  | sh => exact instrOfRow_formatS .sh rfl (fun _ _ _ => ⟨rfl, rfl, rfl, rfl⟩) (by decide) h
  | sw => exact instrOfRow_formatS .sw rfl (fun _ _ _ => ⟨rfl, rfl, rfl, rfl⟩) (by decide) h
  | beq => exact instrOfRow_formatB .beq rfl (fun _ _ _ heven => ⟨rfl, rfl, rfl, heven⟩) (by decide) h
  | bne => exact instrOfRow_formatB .bne rfl (fun _ _ _ heven => ⟨rfl, rfl, rfl, heven⟩) (by decide) h
  | blt => exact instrOfRow_formatB .blt rfl (fun _ _ _ heven => ⟨rfl, rfl, rfl, heven⟩) (by decide) h
  | bge => exact instrOfRow_formatB .bge rfl (fun _ _ _ heven => ⟨rfl, rfl, rfl, heven⟩) (by decide) h
  | bltu => exact instrOfRow_formatB .bltu rfl (fun _ _ _ heven => ⟨rfl, rfl, rfl, heven⟩) (by decide) h
  | bgeu => exact instrOfRow_formatB .bgeu rfl (fun _ _ _ heven => ⟨rfl, rfl, rfl, heven⟩) (by decide) h
  | jal => exact instrOfRow_formatJ .jal rfl (fun _ _ heven => ⟨rfl, rfl, rfl, heven⟩) (by decide) h
  | jalr => exact instrOfRow_formatI .jalr rfl (fun _ _ _ => ⟨rfl, rfl, rfl, rfl⟩) (by decide) h
  | lui => exact instrOfRow_formatU .lui rfl (fun _ _ => ⟨rfl, rfl, rfl, rfl⟩) (by decide) h
  | auipc => exact instrOfRow_formatU .auipc rfl (fun _ _ => ⟨rfl, rfl, rfl, rfl⟩) (by decide) h
  | mret => exact ⟨.mret, (field_of_ones h (by decide)).symm, rfl, rfl, rfl⟩
  | wfi => exact ⟨.wfi, (field_of_ones h (by decide)).symm, rfl, rfl, rfl⟩
  | csrrw =>
    exact instrOfRow_formatI (fun rd rs1 csr => .csrrw rd csr rs1) rfl (fun _ _ _ => ⟨rfl, rfl, rfl, rfl⟩) (by decide) h
  | csrrs =>
    exact instrOfRow_formatI (fun rd rs1 csr => .csrrs rd csr rs1) rfl (fun _ _ _ => ⟨rfl, rfl, rfl, rfl⟩) (by decide) h
  | csrrc =>
    exact instrOfRow_formatI (fun rd rs1 csr => .csrrc rd csr rs1) rfl (fun _ _ _ => ⟨rfl, rfl, rfl, rfl⟩) (by decide) h
  | csrrwi =>
    exact instrOfRow_formatI (fun rd u csr => .csrrwi rd csr u) rfl (fun _ _ _ => ⟨rfl, rfl, rfl, rfl⟩) (by decide) h
  | csrrsi =>
    exact instrOfRow_formatI (fun rd u csr => .csrrsi rd csr u) rfl (fun _ _ _ => ⟨rfl, rfl, rfl, rfl⟩) (by decide) h
  | csrrci =>
    exact instrOfRow_formatI (fun rd u csr => .csrrci rd csr u) rfl (fun _ _ _ => ⟨rfl, rfl, rfl, rfl⟩) (by decide) h
  | mul => exact instrOfRow_formatR .mul rfl (fun _ _ _ => ⟨rfl, rfl, rfl, rfl⟩) (by decide) h
  | mulhu => exact instrOfRow_formatR .mulhu rfl (fun _ _ _ => ⟨rfl, rfl, rfl, rfl⟩) (by decide) h
  | mulh => exact instrOfRow_formatR .mulh rfl (fun _ _ _ => ⟨rfl, rfl, rfl, rfl⟩) (by decide) h
  | mulhsu => exact instrOfRow_formatR .mulhsu rfl (fun _ _ _ => ⟨rfl, rfl, rfl, rfl⟩) (by decide) h
  | div => exact instrOfRow_formatR .div rfl (fun _ _ _ => ⟨rfl, rfl, rfl, rfl⟩) (by decide) h
  | divu => exact instrOfRow_formatR .divu rfl (fun _ _ _ => ⟨rfl, rfl, rfl, rfl⟩) (by decide) h
  | rem => exact instrOfRow_formatR .rem rfl (fun _ _ _ => ⟨rfl, rfl, rfl, rfl⟩) (by decide) h
  | remu => exact instrOfRow_formatR .remu rfl (fun _ _ _ => ⟨rfl, rfl, rfl, rfl⟩) (by decide) h
  | fence => 
    exact instrOfRow_formatI
      (fun rd rs1 x => .fence (x.extractLsb' 8 4) (x.extractLsb' 4 4) (x.extractLsb' 0 4) rs1 rd) rfl
      (fun rd rs1 x => ⟨congrArg (encodeI 0b000 0x0F rd rs1) (fence_join x), rfl, rfl, rfl⟩) (by decide) h
  | ecall => exact ⟨.ecall, (field_of_ones h (by decide)).symm, rfl, rfl, rfl⟩
  | ebreak => exact ⟨.ebreak, (field_of_ones h (by decide)).symm, rfl, rfl, rfl⟩

/-- Where the row exists, the instruction of the row is what the word decodes to, if its registers are allowed. -/
theorem decode_of_instrOfRow {hasM : Bool} {w : Word} {i j : Instr} (rve : Bool) (h : InstrOfRow w i j)
    (hrow : (hasM || !i.isM) = true) :
    decode rve hasM w = if j.regsOk rve then .ok j else .error .rveRegisterOutOfRange := by
  rw [← h.word]
  exact decode_encode rve (by rw [h.isM]; exact hrow) h.even

/-- No word is the word of instructions of two rows. -/
theorem row_eq_of_agrees {w : Word} {i j : Instr} (hi : w &&& i.row.mask = i.row.pattern)
    (hj : w &&& j.row.mask = j.row.pattern) : i.row = j.row := by
  obtain ⟨i', hi'⟩ := exists_instrOfRow hi
  obtain ⟨j', hj'⟩ := exists_instrOfRow hj
  have hdi : decode false true w = .ok i' := (decode_of_instrOfRow false hi' rfl).trans (if_pos rfl)
  have hdj : decode false true w = .ok j' := (decode_of_instrOfRow false hj' rfl).trans (if_pos rfl)
  have heq : i' = j' := Except.ok.inj (hdi.symm.trans hdj)
  rw [← hi'.row, heq, hj'.row]

/-- Settles O3: a word decodes to the instruction of the row it agrees with, and to no other. -/
theorem decodeFollowsOpcodeTable : Obligations.DecodeFollowsOpcodeTable := by
  intro rve hasM w
  refine ⟨fun i h => ?_, fun i hrow h => ?_, fun h => ?_, fun i j => row_eq_of_agrees⟩
  · obtain ⟨hword, hwf⟩ := encodeOfDecode rve hasM w i h
    rw [← hword]
    exact ⟨encode_agrees_row i, (wf_iff.mp hwf).1⟩
  · obtain ⟨j, hj⟩ := exists_instrOfRow h
    exact ⟨j, hj.row, decode_of_instrOfRow rve hj hrow⟩
  · rw [decode_unlisted, Option.eq_none_iff_forall_ne_some]
    intro i hi
    obtain ⟨hword, hrow, -⟩ := isWordOf_of_decodeFields hi
    rw [wordOf_fieldsOf] at hword
    exact h i hrow (hword ▸ encode_agrees_row i)

/-! ### Configurations without all registers or without the M rows (R134, R135) -/

/-- The high registers of a word, on its fields. -/
def highRegisterIn (f : Fields) : Bool :=
  if f.opcode = 0b0110011#7 then f.rd.getLsbD 4 || f.rs1.getLsbD 4 || f.rs2.getLsbD 4
  else if f.opcode = 0b0010011#7 ∨ f.opcode = 0b0000011#7 ∨ f.opcode = 0b1100111#7 then
    f.rd.getLsbD 4 || f.rs1.getLsbD 4
  else if f.opcode = 0b1110011#7 then
    if f.funct3.getLsbD 2 then f.rd.getLsbD 4
    else if f.funct3.getLsbD 1 || f.funct3.getLsbD 0 then f.rd.getLsbD 4 || f.rs1.getLsbD 4
    else false
  else if f.opcode = 0b0100011#7 ∨ f.opcode = 0b1100011#7 then f.rs1.getLsbD 4 || f.rs2.getLsbD 4
  else if f.opcode = 0b0110111#7 ∨ f.opcode = 0b0010111#7 ∨ f.opcode = 0b1101111#7 then f.rd.getLsbD 4
  else false

theorem namesHighRegister_eq (w : Word) : namesHighRegister w = highRegisterIn (fieldsOf w) := by
  simp [namesHighRegister, highRegisterIn, fieldsOf]

/-- A register number below 16 has its top bit clear. -/
theorem decide_toNat_lt_sixteen (r : RegNum) : decide (r.toNat < 16) = !r.getLsbD 4 := by
  revert r; decide

/-- On the word of an instruction the fields that R134 checks are its register operands. -/
theorem regsOk_eq_not_namesHighRegister (i : Instr) : i.regsOk true = !namesHighRegister (encode i) := by
  rw [namesHighRegister_eq]
  cases i with
  | add | sub | xor | or | and | sll | srl | sra | slt | sltu | mul | mulhu | mulh | mulhsu | div | divu | rem | remu =>
    simp [Instr.regsOk, Instr.regFields, decide_toNat_lt_sixteen, encode, encodeR, highRegisterIn, Bool.and_assoc]
  | slli | srli | srai =>
    simp [Instr.regsOk, Instr.regFields, decide_toNat_lt_sixteen, encode, encodeR, highRegisterIn]
  | addi | xori | ori | andi | slti | sltiu | lb | lh | lw | lbu | lhu | jalr | csrrw | csrrs | csrrc | csrrwi | csrrsi
  | csrrci =>
    simp [Instr.regsOk, Instr.regFields, decide_toNat_lt_sixteen, encode, encodeI, encodeR, highRegisterIn]
  | sb | sh | sw =>
    simp [Instr.regsOk, Instr.regFields, decide_toNat_lt_sixteen, encode, encodeS, encodeR, highRegisterIn]
  | beq | bne | blt | bge | bltu | bgeu =>
    simp [Instr.regsOk, Instr.regFields, decide_toNat_lt_sixteen, encode, encodeB, encodeR, highRegisterIn]
  | lui | auipc =>
    simp [Instr.regsOk, Instr.regFields, decide_toNat_lt_sixteen, encode, encodeU, encodeR, highRegisterIn]
  | jal =>
    simp [Instr.regsOk, Instr.regFields, decide_toNat_lt_sixteen, encode, encodeJ, encodeU, encodeR, highRegisterIn]
  | mret | wfi | ecall | ebreak | fence =>
    simp [Instr.regsOk, Instr.regFields, encode, encodeI, encodeR, highRegisterIn]

/-- Settles O4: the word that decodes is its instruction's, and on it both tests of the registers agree. -/
theorem rveRefusesHighRegisters : Obligations.RveRefusesHighRegisters := by
  intro hasM w i h
  obtain ⟨hword, hwf⟩ := encodeOfDecode false hasM w i h
  obtain ⟨-, hrow, heven⟩ := wf_iff.mp hwf
  rw [← hword, decode_encode true hrow heven, regsOk_eq_not_namesHighRegister]
  cases namesHighRegister (encode i) <;> rfl

/-- The M rows are those of one opcode and one `funct7` (R131). -/
theorem agrees_M_iff (w : Word) : w &&& 0xFE00007F#32 = 0x02000033#32 ↔
    (fieldsOf w).opcode = 0x33#7 ∧ (fieldsOf w).funct7 = 0b0000001#7 := by
  have hmask : fieldsOf 0xFE00007F#32 = ⟨0b1111111, 0, 0, 0, 0, 0b1111111⟩ := by decide
  have hpat : fieldsOf 0x02000033#32 = ⟨0b0000001, 0, 0, 0, 0, 0x33⟩ := by decide
  have hfields : w &&& 0xFE00007F#32 = 0x02000033#32 ↔ fieldsOf (w &&& 0xFE00007F#32) = fieldsOf 0x02000033#32 :=
    ⟨congrArg fieldsOf, fieldsOf_inj⟩
  rw [hfields, fieldsOf_and, hmask, hpat, Fields.mk.injEq]
  constructor
  · rintro ⟨h7, -, -, -, -, ho⟩
    exact ⟨field_of_ones ho (by decide), field_of_ones h7 (by decide)⟩
  · rintro ⟨ho, h7⟩
    rw [ho, h7]
    simp

/-- Only the M rows depend on HAS_M. -/
theorem decodeFields_hasM (f : Fields) : decodeFields false f =
    if f.opcode = 0x33#7 ∧ f.funct7 = 0b0000001#7 then none else decodeFields true f := by
  by_cases ho : f.opcode = 0x33#7
  · by_cases h7 : f.funct7 = 0b0000001#7
    · simp [decodeFields, ho, h7]
    · simp [decodeFields, ho, h7]
  · rw [if_neg fun h => ho h.1]
    unfold decodeFields
    split <;> first | rfl | contradiction

/-- Settles O5: the mask picks the words of the M rows, and no other row depends on HAS_M. -/
theorem mWordsNeedHasM : Obligations.MWordsNeedHasM := by
  intro rve w
  rw [ne_eq, agrees_M_iff]
  constructor
  · intro h
    rw [decode_unlisted, decodeFields_hasM, if_pos h]
  · intro h
    unfold decode
    rw [decodeFields_hasM, if_neg h]

/-- Settles O6: a word of each family, evaluated. -/
theorem sampleWordsDecode : Obligations.SampleWordsDecode :=
  ⟨by decide, by decide, by decide, by decide, by decide, by decide, by decide, by decide, by decide, by decide,
    by decide, by decide⟩

end Sys2Proof.Machine
end

section
/-! The statements about every step: what an instruction that completes keeps, once for all instructions, then what a
step keeps. -/

namespace Sys2Proof.Machine

variable {s t : State} {i : Instr}

/-! ### What an instruction can do to the control registers -/

/-- The count touches the instruction counter alone (60_exceptions.md R360). -/
theorem State.retire_csrs (s : State) (i : Instr) (counting : Bool) : (s.retire i counting).csrs =
    { s.csrs with minstret :=
        if counting && countsInMinstret i then s.csrs.minstret + 1 else s.csrs.minstret } := by
  unfold State.retire
  split <;> rfl

/-- The count touches nothing outside the control registers. -/
theorem State.retire_eq (s : State) (i : Instr) (counting : Bool) :
    s.retire i counting = { s with csrs := (s.retire i counting).csrs } := by
  unfold State.retire
  split <;> rfl

/-- Which control register fields a write that completes touches: each only at its own addresses (48_csr.md R276). -/
structure FieldsByWrite (s t : State) (a : CsrAddr) : Prop where
  mie : t.csrs.mie ≠ s.csrs.mie → a = 0x300#12
  minstret : t.csrs.minstret ≠ s.csrs.minstret → (a == 0xB02#12 || a == 0xB82#12) = true
  mtime : t.csrs.mtime ≠ s.csrs.mtime → (a == 0xB03#12 || a == 0xB83#12) = true

theorem State.csrWrite_fields {a : CsrAddr} {v : Word} (h : s.csrWrite a v = .next t) : FieldsByWrite s t a := by
  unfold State.csrWrite at h
  split at h
  all_goals (repeat' split at h)
  all_goals cases h <;> constructor <;> simp

/-- A CSR form touches the control registers through its write alone. -/
theorem State.csrAccess_fields {op : CsrOp} {rd : RegNum} {a : CsrAddr} {v : Word} {rds : Bool}
    (h : s.csrAccess op rd a v rds true = .next t) : FieldsByWrite s t a := by
  obtain ⟨_, _, u, hu, rfl⟩ := State.csrAccess_next.mp h
  rw [if_pos rfl] at hu
  obtain ⟨hmie, hret, htime⟩ := State.csrWrite_fields hu
  have hs : (if rds && csrWriteOnly a then s.drawn else s).csrs = s.csrs := by split <;> rfl
  have ht : (if rds then u.writeReg rd (s.csrRead a) else u).advance.csrs = u.csrs := by cases rds <;> simp
  rw [hs] at hmie hret htime
  constructor <;> rw [ht] <;> assumption

/-- The CSR form that runs an access which writes: its address, and for the two swap forms its operand (R277, R278,
R281). -/
structure WritingForm (s : State) (i : Instr) (op : CsrOp) (a : CsrAddr) (v : Word) : Prop where
  writes : ∀ p : CsrAddr → Bool, writesCsr i p = p a
  swap : op = .write → (∃ rd rs1, i = .csrrw rd a rs1 ∧ v = s.readReg rs1) ∨
    (∃ rd uimm, i = .csrrwi rd a uimm ∧ v = zextUimm uimm)

/-- An instruction that is an access which writes. -/
def IsWritingAccess (s t : State) (i : Instr) : Prop :=
  ∃ op rd a v rds, s.csrAccess op rd a v rds true = .next t ∧ WritingForm s i op a v

/-- A set or clear form with an operand. -/
theorem isWritingAccess_of_setClear {op : CsrOp} {rd : RegNum} {a : CsrAddr} {v : Word} {wrs : Bool}
    (h : s.csrAccess op rd a v true wrs = .next t) (hop : op ≠ .write) (hform : ∀ p, writesCsr i p = (p a && wrs))
    (hw : writesCsr i (fun _ => true) = true) : IsWritingAccess s t i := by
  have hwrs : wrs = true := (hform _).symm.trans hw
  subst hwrs
  exact ⟨op, rd, a, v, true, h, fun p => (hform p).trans (Bool.and_true _), fun e => absurd e hop⟩

/-- The instructions that write a control register are the CSR forms with their write half. -/
theorem isWritingAccess_of_writesCsr (h : exec i s = .next t) (hw : writesCsr i (fun _ => true) = true) :
    IsWritingAccess s t i := by
  cases i with
  | csrrw rd a rs1 => exact ⟨.write, rd, a, _, _, h, fun _ => rfl, fun _ => .inl ⟨rd, rs1, rfl, rfl⟩⟩
  | csrrwi rd a uimm => exact ⟨.write, rd, a, _, _, h, fun _ => rfl, fun _ => .inr ⟨rd, uimm, rfl, rfl⟩⟩
  | csrrs rd a rs1 | csrrc rd a rs1 | csrrsi rd a uimm | csrrci rd a uimm =>
    exact isWritingAccess_of_setClear h (by decide) (fun _ => rfl) hw
  | _ => cases hw

/-- All that an instruction that completes can do to the control registers: a CSR form that writes, `mret`, the
exception of an unlisted encoding. -/
theorem exec_csrs (h : exec i s = .next t) :
    t.csrs = s.csrs ∨ IsWritingAccess s t i ∨ (i = .mret ∧ t = s.trapReturn) ∨
      (isUnlisted i = true ∧ t = s.takeTrap .coreException) := by
  rcases exec_next h with ⟨rs, p, f, rfl, -, -⟩ | ⟨rs2, rs1, imm, w, -, hst⟩ |
    ⟨op, rd, a, v, rds, wrs, hacc, hform, -⟩ | hret |
    ⟨-, rfl⟩ | hun
  · exact .inl rfl
  · rcases State.store_next hst with ⟨r, -, -, -, rfl⟩ | rfl <;> exact .inl rfl
  · cases wrs with
    | false => exact .inl ((State.csrAccess_frame hacc).2 rfl)
    | true => exact .inr (.inl (isWritingAccess_of_writesCsr h (hform _)))
  · exact .inr (.inr (.inl hret))
  · exact .inl rfl
  · exact .inr (.inr (.inr hun))

theorem WritingForm.writes_of {op : CsrOp} {a : CsrAddr} {v : Word} (hform : WritingForm s i op a v)
    {p : CsrAddr → Bool} (hp : p a = true) : writesCsr i p = true := (hform.writes p).trans hp

/-- The instruction counter changes in an instruction only by a write of its own (R360). -/
theorem exec_minstret (h : exec i s = .next t)
    (hw : writesCsr i (fun a => a == 0xB02#12 || a == 0xB82#12) = false) : t.csrs.minstret = s.csrs.minstret := by
  rcases exec_csrs h with hsame | ⟨op, rd, a, v, rds, hacc, hform⟩ | ⟨-, rfl⟩ | ⟨-, rfl⟩
  · rw [hsame]
  · by_contra hne
    exact Bool.false_ne_true (hw.symm.trans (hform.writes_of ((State.csrAccess_fields hacc).minstret hne)))
  · rfl
  · rfl

/-- The timer counter changes in an instruction only by a write of its own (R362). -/
theorem exec_mtime (h : exec i s = .next t)
    (hw : writesCsr i (fun a => a == 0xB03#12 || a == 0xB83#12) = false) : t.csrs.mtime = s.csrs.mtime := by
  rcases exec_csrs h with hsame | ⟨op, rd, a, v, rds, hacc, hform⟩ | ⟨-, rfl⟩ | ⟨-, rfl⟩
  · rw [hsame]
  · by_contra hne
    exact Bool.false_ne_true (hw.symm.trans (hform.writes_of ((State.csrAccess_fields hacc).mtime hne)))
  · rfl
  · rfl

/-- The interrupt enable is raised in an instruction only by `mret` or a write to `mstatus` (60_exceptions.md R331). -/
theorem exec_mie (h : exec i s = .next t) (h0 : s.csrs.mie = false) (h1 : t.csrs.mie = true) :
    i = .mret ∨ writesCsr i (fun a => a == 0x300#12) = true := by
  rcases exec_csrs h with hsame | ⟨op, rd, a, v, rds, hacc, hform⟩ | ⟨rfl, -⟩ | ⟨-, rfl⟩
  · rw [hsame, h0] at h1
    cases h1
  · have ha := (State.csrAccess_fields hacc).mie (by rw [h0, h1]; decide)
    exact .inr (hform.writes_of (beq_iff_eq.mpr ha))
  · exact .inl rfl
  · cases h1

/-- The constant of a CSR immediate form is the number in its field (30_encoding.md R128). -/
theorem toNat_zextUimm (uimm : BitVec 5) : (zextUimm uimm).toNat = uimm.toNat :=
  BitVec.toNat_setWidth_of_le (by decide)

/-- The software interrupt's request changes in an instruction only by a swap form on `msip` (R328). -/
theorem exec_msipPending (h : exec i s = .next t) (hne : t.csrs.msipPending ≠ s.csrs.msipPending) :
    (∃ rd rs1, i = .csrrw rd 0x345#12 rs1 ∧ (s.readReg rs1).toNat = if t.csrs.msipPending then 1 else 0) ∨
      (∃ rd uimm, i = .csrrwi rd 0x345#12 uimm ∧ uimm.toNat = if t.csrs.msipPending then 1 else 0) := by
  rcases exec_csrs h with hsame | ⟨op, rd, a, v, rds, hacc, hform⟩ | ⟨-, rfl⟩ | ⟨-, rfl⟩
  · exact absurd (by rw [hsame]) hne
  · obtain ⟨rfl, -, rfl, hv⟩ := (State.csrAccess_msipPending hacc).resolve_left hne
    have hbit : v.toNat = if t.csrs.msipPending then 1 else 0 := by rw [hv]; split <;> rfl
    rcases hform.swap rfl with ⟨rd', rs1, rfl, rfl⟩ | ⟨rd', uimm, rfl, rfl⟩
    · exact .inl ⟨rd', rs1, rfl, hbit⟩
    · exact .inr ⟨rd', uimm, rfl, (toNat_zextUimm uimm).symm.trans hbit⟩
  · exact absurd rfl hne
  · exact absurd rfl hne

/-! ### What an instruction can do to the rest of the state -/

/-- What every instruction that completes keeps of the parameters, the inputs, the outputs and the stored code
(00_scope.md R6, 20_memory.md R100, 60_exceptions.md R370, R374). -/
structure KeptByExec (s t : State) : Prop where
  config : t.config = s.config
  inputs : t.inputs = s.inputs
  freeIndex : s.freeIndex ≤ t.freeIndex
  signals : ∃ l, t.plicSignals = s.plicSignals ++ l ∧ l.length ≤ 1
  simOutput : ∃ l, t.simOutput = s.simOutput ++ l ∧ l.length ≤ 1
  storedCode : ∀ a ∈ s.storedCode, a ∈ t.storedCode

/-- A list that has not grown. -/
theorem grows_refl {α : Type} (l : List α) : ∃ m, l = l ++ m ∧ m.length ≤ 1 := ⟨[], by simp, by simp⟩

theorem keptByExec_trapReturn (s : State) : KeptByExec s s.trapReturn where
  config := rfl
  inputs := rfl
  freeIndex := Nat.le_refl _
  signals := by
    unfold State.trapReturn
    split
    · exact ⟨[_], rfl, Nat.le_refl _⟩
    · exact grows_refl _
  simOutput := grows_refl _
  storedCode _ h := h

theorem takeTrap_freeIndex_le (s : State) (c : TrapCause) : s.freeIndex ≤ (s.takeTrap c).freeIndex := by
  cases c <;> simp [State.takeTrap]

theorem keptByExec_takeTrap (s : State) (c : TrapCause) : KeptByExec s (s.takeTrap c) where
  config := rfl
  inputs := rfl
  freeIndex := takeTrap_freeIndex_le s c
  signals := grows_refl _
  simOutput := grows_refl _
  storedCode _ h := h

/-- A store that completes adds addresses to the record of stored code. -/
theorem keptByExec_store {ea : Word} {w : Width} {v : Word} (h : s.store ea w v = .next t) : KeptByExec s t := by
  rcases State.store_next h with ⟨r, -, -, -, rfl⟩ | rfl
  · refine ⟨rfl, rfl, Nat.le_refl _, grows_refl _, grows_refl _, fun a ha => ?_⟩
    rw [State.advance_storedCode, State.writeBytes_storedCode]
    split
    · exact (mem_addrInsertRange ..).mpr (.inr ha)
    · exact ha
  · exact ⟨rfl, rfl, Nat.le_refl _, grows_refl _, grows_refl _, fun _ ha => ha⟩

theorem exec_keeps (h : exec i s = .next t) : KeptByExec s t := by
  rcases exec_next h with ⟨rs, p, f, rfl, -, hf⟩ | ⟨rs2, rs1, imm, w, -, hst⟩ | ⟨op, rd, a, v, rds, wrs, hacc, -⟩ |
    ⟨-, rfl⟩ | ⟨-, rfl⟩ | ⟨-, rfl⟩
  · exact ⟨rfl, rfl, hf, grows_refl _, grows_refl _, fun _ ha => ha⟩
  · exact keptByExec_store hst
  · obtain ⟨⟨c, o, e, q, rs, p, f, rfl, -, hf, ho⟩, -⟩ := State.csrAccess_frame hacc
    exact ⟨rfl, rfl, hf, grows_refl _, ho, fun _ ha => ha⟩
  · exact keptByExec_trapReturn s
  · exact ⟨rfl, rfl, Nat.le_refl _, grows_refl _, grows_refl _, fun _ ha => ha⟩
  · exact keptByExec_takeTrap s _

/-- Which outputs to the host an instruction that completes touches (60_exceptions.md R373 to R375). -/
structure OutputsByInstr (s t : State) (i : Instr) : Prop where
  simOutput : t.simOutput ≠ s.simOutput → writesCsr i (fun a => a == 0x346#12) = true
  simEnded : t.simEnded ≠ s.simEnded → writesCsr i (fun a => a == 0x347#12) = true
  softResetReq : t.softResetReq ≠ s.softResetReq → writesCsr i (fun a => a == 0xB88#12) = true
  simEndedStays : s.simEnded = true → t.simEnded = true
  softResetReqStays : s.softResetReq = true → t.softResetReq = true

theorem outputsByInstr_of_same (ho : t.simOutput = s.simOutput) (he : t.simEnded = s.simEnded)
    (hq : t.softResetReq = s.softResetReq) : OutputsByInstr s t i :=
  ⟨fun h => absurd ho h, fun h => absurd he h, fun h => absurd hq h, he.trans, hq.trans⟩

theorem exec_outputs (h : exec i s = .next t) : OutputsByInstr s t i := by
  rcases exec_next h with ⟨rs, p, f, rfl, -, -⟩ | ⟨rs2, rs1, imm, w, -, hst⟩ |
    ⟨op, rd, a, v, rds, wrs, hacc, hform, -⟩ |
    ⟨-, rfl⟩ | ⟨-, rfl⟩ | ⟨-, rfl⟩
  · exact outputsByInstr_of_same rfl rfl rfl
  · rcases State.store_next hst with ⟨r, -, -, -, rfl⟩ | rfl <;> exact outputsByInstr_of_same rfl rfl rfl
  · have hwrites : ∀ b : CsrAddr, a = b ∧ wrs = true → writesCsr i (· == b) = true := by
      rintro _ ⟨rfl, rfl⟩
      simp [hform]
    obtain ⟨ho, he, hq, hes, hqs⟩ := State.csrAccess_outputs hacc
    exact ⟨fun h => hwrites _ (ho h), fun h => hwrites _ (he h), fun h => hwrites _ (hq h), hes, hqs⟩
  · exact outputsByInstr_of_same rfl rfl rfl
  · exact outputsByInstr_of_same rfl rfl rfl
  · exact outputsByInstr_of_same rfl rfl rfl

/-- The bytes that the instruction stores when it completes in a range of memory (43_store.md R215 to R217). -/
def StoresAt (s : State) (i : Instr) (a : Nat) : Prop :=
  ∃ rs2 rs1 imm n,
    (i, n) ∈ [(Instr.sb rs2 rs1 imm, 1), (Instr.sh rs2 rs1 imm, 2), (Instr.sw rs2 rs1 imm, 4)] ∧
    (s.effectiveAddress rs1 imm).toNat ≤ a ∧ a < (s.effectiveAddress rs1 imm).toNat + n

/-- A byte of memory changes in an instruction only where it stores (20_memory.md R83). -/
theorem exec_byteAt {a : Nat} (h : exec i s = .next t) (hne : t.byteAt a ≠ s.byteAt a) : StoresAt s i a := by
  rcases exec_next h with ⟨rs, p, f, rfl, -, -⟩ | ⟨rs2, rs1, imm, w, hi, hst⟩ | ⟨op, rd, b, v, rds, wrs, hacc, -⟩ |
    ⟨-, rfl⟩ | ⟨-, rfl⟩ | ⟨-, rfl⟩
  · exact absurd rfl hne
  · have hform : (i, widthBytes w) ∈
        [(Instr.sb rs2 rs1 imm, 1), (Instr.sh rs2 rs1 imm, 2), (Instr.sw rs2 rs1 imm, 4)] := by
      rcases hi with ⟨rfl, rfl⟩ | ⟨rfl, rfl⟩ | ⟨rfl, rfl⟩ <;> simp [widthBytes]
    rcases State.store_next hst with ⟨r, -, -, -, rfl⟩ | rfl
    · rw [State.byteAt_advance, State.byteAt_writeBytes] at hne
      exact ⟨rs2, rs1, imm, widthBytes w, hform, of_not_not fun hout => hne (if_neg hout)⟩
    · exact absurd rfl hne
  · obtain ⟨⟨c, o, e, q, rs, p, f, rfl, -⟩, -⟩ := State.csrAccess_frame hacc
    exact absurd rfl hne
  · exact absurd rfl hne
  · exact absurd rfl hne
  · exact absurd rfl hne

/-! ### The invariant -/

/-- No bad id is presented exactly when the request has a Trap code (60_exceptions.md R325). -/
theorem badExternalId_eq_false_iff : s.badExternalId = false ↔ idInRange s.extRequest := by
  unfold State.badExternalId idInRange
  cases s.extRequest <;> simp

theorem State.Inv.environment (h : s.Inv) (hid : s.environment.badExternalId = false) : s.environment.Inv := by
  obtain ⟨m, r, he⟩ := s.environment_eq
  rw [badExternalId_eq_false_iff] at hid
  rw [he] at hid ⊢
  exact ⟨h.memory, h.storedRising, h.storedInProgram, h.zeroSlot, h.pendingId, h.serviceId, hid, h.serviceInHandler⟩

theorem State.Inv.acceptRequest (h : s.Inv) : s.acceptRequest.Inv := by
  rcases s.acceptRequest_eq with he | ⟨id, hreq, -, he⟩ <;> rw [he]
  · exact h
  · exact ⟨h.memory, h.storedRising, h.storedInProgram, h.zeroSlot, fun j hj => h.requestId j (hreq.trans hj),
      h.serviceId, nofun, h.serviceInHandler⟩

theorem State.Inv.afterEnvironment (h : s.Inv) (hid : s.environment.badExternalId = false) :
    s.afterEnvironment.Inv := by
  unfold State.afterEnvironment
  split
  · exact (h.environment hid).acceptRequest
  · exact h.environment hid

/-- Trap entry: an external interrupt goes into service, and a handler runs from here on. -/
theorem State.Inv.takeTrap {c : TrapCause} (h : s.Inv) (hc : c = .coreException ∨ c ∈ s.takeable) :
    (s.takeTrap c).Inv where
  memory := h.memory
  storedRising := h.storedRising
  storedInProgram := h.storedInProgram
  zeroSlot := h.zeroSlot
  requestId := h.requestId
  serviceInHandler _ := Nat.succ_pos _
  pendingId := by
    cases c with
    | external id => exact nofun
    | coreException | software | timer => exact h.pendingId
  serviceId := by
    cases c with
    | external id =>
      obtain ⟨-, ⟨h, -⟩ | ⟨h, -⟩ | ⟨-, j, hj, hp⟩⟩ := State.mem_takeable.mp (hc.resolve_left nofun)
      · cases h
      · cases h
      · cases hj
        exact fun k hk => h.pendingId k (hp.trans hk)
    | coreException | software | timer => exact h.serviceId

theorem State.Inv.trapReturn (h : s.Inv) : s.trapReturn.Inv :=
  ⟨h.memory, h.storedRising, h.storedInProgram, h.zeroSlot, h.pendingId, nofun, h.requestId, fun hne => absurd rfl hne⟩

/-- An address of a covered access to the program memory lies in the program memory. -/
theorem inProgramMemory_of_covers {c : Config} {r : Region} {a n b : Nat} (hr : r ∈ c.memoryMap)
    (hk : r.kind = .programMemory) (hc : Region.covers r a n = true) (hb : a ≤ b ∧ b < a + n) :
    Config.inProgramMemory c b 1 = true := by
  simp only [Region.covers, Bool.and_eq_true, decide_eq_true_eq] at hc
  refine List.any_eq_true.mpr ⟨r, hr, ?_⟩
  simp only [hk, Region.covers, Bool.and_eq_true, decide_eq_true_eq, beq_self_eq_true, true_and]
  omega

/-- An aligned access ends inside the 32-bit space (20_memory.md R80, R89). -/
theorem toNat_add_widthBytes_le {ea : Word} {w : Width} (h : ea.toNat % widthBytes w = 0) :
    ea.toNat + widthBytes w ≤ 2 ^ 32 := by
  have := ea.isLt
  cases w <;> simp only [widthBytes] at h ⊢ <;> omega

theorem State.Inv.store {ea : Word} {w : Width} {v : Word} (h : s.Inv) (hst : s.store ea w v = .next t) : t.Inv := by
  rcases State.store_next hst with ⟨r, hr, hc, ha, rfl⟩ | rfl
  · have hmem := memWriteBytes_wf h.memory ea.toNat v (widthBytes w) (toNat_add_widthBytes_le ha)
    refine ⟨hmem, ?_, ?_, h.zeroSlot, h.pendingId, h.serviceId, h.requestId, h.serviceInHandler⟩
    · rw [State.advance_storedCode, State.writeBytes_storedCode]
      split
      · exact addrInsertRange_pairwise h.storedRising _ _
      · exact h.storedRising
    · rw [State.advance_storedCode, State.writeBytes_storedCode]
      split
      case isTrue hk =>
        intro b hb
        rcases (mem_addrInsertRange ..).mp hb with hnew | hold
        · exact inProgramMemory_of_covers hr hk hc hnew
        · exact h.storedInProgram b hold
      case isFalse => exact h.storedInProgram
  · exact ⟨h.memory, h.storedRising, h.storedInProgram, h.zeroSlot, h.pendingId, h.serviceId, h.requestId,
      h.serviceInHandler⟩

/-- Every instruction that completes keeps the invariant. -/
theorem State.Inv.exec (h : s.Inv) (hx : exec i s = .next t) : t.Inv := by
  rcases exec_next hx with ⟨rs, p, f, rfl, hz, -⟩ | ⟨rs2, rs1, imm, w, -, hst⟩ | ⟨op, rd, a, v, rds, wrs, hacc, -⟩ |
    ⟨-, rfl⟩ | ⟨-, rfl⟩ | ⟨-, rfl⟩
  · exact ⟨h.memory, h.storedRising, h.storedInProgram, hz.trans h.zeroSlot, h.pendingId, h.serviceId, h.requestId,
      h.serviceInHandler⟩
  · exact h.store hst
  · obtain ⟨⟨c, o, e, q, rs, p, f, rfl, hz, -⟩, -⟩ := State.csrAccess_frame hacc
    exact ⟨h.memory, h.storedRising, h.storedInProgram, hz.trans h.zeroSlot, h.pendingId, h.serviceId, h.requestId,
      h.serviceInHandler⟩
  · exact h.trapReturn
  · exact ⟨h.memory, h.storedRising, h.storedInProgram, h.zeroSlot, h.pendingId, h.serviceId, h.requestId,
      h.serviceInHandler⟩
  · exact h.takeTrap (.inl rfl)

theorem State.Inv.retire (h : s.Inv) (i : Instr) (counting : Bool) : (s.retire i counting).Inv := by
  rw [State.retire_eq]
  exact ⟨h.memory, h.storedRising, h.storedInProgram, h.zeroSlot, h.pendingId, h.serviceId, h.requestId,
    h.serviceInHandler⟩

/-- Settles O54: the environment, a trap, an instruction and the count keep the invariant one by one. -/
theorem stepKeepsInvariant : Obligations.StepKeepsInvariant := by
  intro s t h hstep
  obtain ⟨-, -, hid, rfl | ⟨c, hc, rfl⟩ | ⟨w, i, u, -, -, -, hx, rfl⟩⟩ := step_next hstep
  · exact h.afterEnvironment hid
  · exact (h.afterEnvironment hid).takeTrap (hc.imp_right And.left)
  · exact ((h.afterEnvironment hid).exec hx).retire _ _

end Sys2Proof.Machine
end

section
/-! What a step keeps, changes only in one way, or only adds to, and what the two counters count. -/

namespace Sys2Proof.Machine

variable {s t : State}

/-! ### The environment leaves the rest alone -/

theorem readReg_afterEnvironment (s : State) (r : RegNum) : s.afterEnvironment.readReg r = s.readReg r :=
  State.readReg_congr s.afterEnvironment_regs r

theorem byteAt_afterEnvironment (s : State) (a : Nat) : s.afterEnvironment.byteAt a = s.byteAt a :=
  State.byteAt_congr s.afterEnvironment_mem a

theorem effectiveAddress_afterEnvironment (s : State) (rs1 : RegNum) (imm : BitVec 12) :
    s.afterEnvironment.effectiveAddress rs1 imm = s.effectiveAddress rs1 imm := by
  rw [State.effectiveAddress, State.effectiveAddress, readReg_afterEnvironment]

/-- The environment moves no control register but `mtime`, and that one only while `mcctr[2]` is 1 (R362). -/
theorem afterEnvironment_mie (s : State) : s.afterEnvironment.csrs.mie = s.csrs.mie := by
  obtain ⟨m, h⟩ := s.after_csrs
  rw [h]

theorem afterEnvironment_msipPending (s : State) : s.afterEnvironment.csrs.msipPending = s.csrs.msipPending := by
  obtain ⟨m, h⟩ := s.after_csrs
  rw [h]

/-- The acceptance of a request adds at most its signal (60_exceptions.md R367). -/
theorem afterEnvironment_plicSignals (s : State) :
    ∃ l, s.afterEnvironment.plicSignals = s.plicSignals ++ l ∧ l.length ≤ 1 := by
  unfold State.afterEnvironment
  split
  · rcases s.environment.acceptRequest_eq with h | ⟨id, -, -, h⟩ <;> rw [h]
    · rw [State.environment_plicSignals]
      exact grows_refl _
    · exact ⟨[.accepted id], by rw [State.environment_plicSignals], Nat.le_refl _⟩
  · rw [State.environment_plicSignals]
    exact grows_refl _

/-! ### Only one way (20_memory.md R83; 60_exceptions.md R328, R331) -/

/-- Settles O55: only the instruction of a step changes a byte, and it is a store. -/
theorem onlyStoresChangeMemory : Obligations.OnlyStoresChangeMemory := by
  intro s t a hstep hne
  obtain ⟨-, -, -, rfl | ⟨c, -, rfl⟩ | ⟨w, i, u, hat, hw, hd, hx, rfl⟩⟩ := step_next hstep
  · exact absurd (byteAt_afterEnvironment s a) hne
  · exact absurd (byteAt_afterEnvironment s a) hne
  · have hu : u.byteAt a ≠ s.afterEnvironment.byteAt a := by
      rwa [State.byteAt_congr (State.retire_mem ..) a, ← byteAt_afterEnvironment s] at hne
    obtain ⟨rs2, rs1, imm, n, hform, hrange⟩ := exec_byteAt hx hu
    rw [effectiveAddress_afterEnvironment] at hrange
    exact ⟨w, i, rs2, rs1, imm, n, hat, hw, hd, hform, hrange⟩

/-- Settles O56: the environment and a trap do not raise the enable; an instruction does it in two ways. -/
theorem interruptsEnabledOnlyBy : Obligations.InterruptsEnabledOnlyBy := by
  intro s t hstep h0 h1
  rw [← afterEnvironment_mie s] at h0
  obtain ⟨-, -, -, rfl | ⟨c, -, rfl⟩ | ⟨w, i, u, hat, hw, hd, hx, rfl⟩⟩ := step_next hstep
  · exact absurd (h0.symm.trans h1) Bool.false_ne_true
  · cases h1
  · rw [State.retire_csrs] at h1
    exact ⟨w, i, hat, hw, hd, exec_mie hx h0 h1⟩

/-- Settles O59: the environment and a trap keep the request; only a swap form on `msip` moves it. -/
theorem msipPendingChangedOnlyBy : Obligations.MsipPendingChangedOnlyBy := by
  intro s t hstep hne
  rw [← afterEnvironment_msipPending s] at hne
  obtain ⟨-, -, -, rfl | ⟨c, -, rfl⟩ | ⟨w, i, u, hat, hw, hd, hx, rfl⟩⟩ := step_next hstep
  · exact absurd rfl hne
  · exact absurd rfl hne
  · rw [State.retire_csrs] at hne ⊢
    have hform := exec_msipPending hx hne
    simp only [readReg_afterEnvironment] at hform
    exact ⟨i, ⟨w, hat, hw, hd⟩, hform⟩

/-! ### The checks of a step before its moves (60_exceptions.md R325, R372, R373, R375) -/

theorem step_of_simEnded (h : s.simEnded = true) : step s = .fault .simulationEnded := by
  simp [Machine.step, State.fullStep, h]

theorem step_of_softResetReq (hended : s.simEnded = false) (h : s.softResetReq = true) :
    step s = .refused .softResetRequested := by
  simp [Machine.step, State.fullStep, hended, h]

theorem step_of_badExternalId (hended : s.simEnded = false) (hreset : s.softResetReq = false)
    (h : s.environment.badExternalId = true) : step s = .refused .externalIdOutOfRange := by
  simp [Machine.step, State.fullStep, hended, hreset, h]

theorem step_of_halt (hended : s.simEnded = false) (hreset : s.softResetReq = false)
    (hid : s.environment.badExternalId = false) (h : s.nextInput.halt = true) : step s = .next s.afterEnvironment := by
  simp [Machine.step, State.fullStep, hended, hreset, hid, h]

/-! ### What a step keeps (00_scope.md R6, 20_memory.md R100) -/

/-- What every step keeps of the parameters, the inputs, the outputs and the stored code. -/
structure KeptByStep (s t : State) : Prop where
  config : t.config = s.config
  inputs : t.inputs = s.inputs.tail
  freeIndex : s.freeIndex < t.freeIndex
  signals : ∃ l, t.plicSignals = s.plicSignals ++ l ∧ l.length ≤ 2
  simOutput : ∃ l, t.simOutput = s.simOutput ++ l ∧ l.length ≤ 1
  storedCode : ∀ a ∈ s.storedCode, a ∈ t.storedCode

/-- After the environment's moves, what the hart keeps the step keeps. -/
theorem keptByStep_of_keptByExec (h : KeptByExec s.afterEnvironment t) : KeptByStep s t where
  config := h.config.trans s.afterEnvironment_config
  inputs := h.inputs.trans s.afterEnvironment_inputs
  freeIndex := Nat.lt_of_succ_le (s.afterEnvironment_freeIndex.symm.le.trans h.freeIndex)
  signals := by
    obtain ⟨l, hl, hlen⟩ := afterEnvironment_plicSignals s
    obtain ⟨m, hm, hmlen⟩ := h.signals
    exact ⟨l ++ m, by rw [hm, hl, List.append_assoc], by rw [List.length_append]; omega⟩
  simOutput := s.afterEnvironment_simOutput ▸ h.simOutput
  storedCode := s.afterEnvironment_storedCode ▸ h.storedCode

theorem keptByExec_refl (s : State) : KeptByExec s s :=
  ⟨rfl, rfl, Nat.le_refl _, grows_refl _, grows_refl _, fun _ h => h⟩

/-- The count keeps all of it. -/
theorem KeptByExec.retire {i : Instr} {counting : Bool} (h : KeptByExec s t) : KeptByExec s (t.retire i counting) := by
  rw [State.retire_eq]
  exact ⟨h.config, h.inputs, h.freeIndex, h.signals, h.simOutput, h.storedCode⟩

theorem step_keeps (hstep : step s = .next t) : KeptByStep s t := by
  obtain ⟨-, -, -, rfl | ⟨c, -, rfl⟩ | ⟨w, i, u, -, -, -, hx, rfl⟩⟩ := step_next hstep
  · exact keptByStep_of_keptByExec (keptByExec_refl _)
  · exact keptByStep_of_keptByExec (keptByExec_takeTrap _ c)
  · exact keptByStep_of_keptByExec (exec_keeps hx).retire

/-- A run of any length keeps the parameters and the stored addresses. -/
theorem ReachableFrom.keeps (h : ReachableFrom s t) : t.config = s.config ∧ ∀ a ∈ s.storedCode, a ∈ t.storedCode := by
  induction h with
  | refl => exact ⟨rfl, fun _ ha => ha⟩
  | step _ hstep ih =>
    have hkeep := step_keeps hstep
    exact ⟨hkeep.config.trans ih.1, fun a ha => hkeep.storedCode a (ih.2 a ha)⟩

/-- Settles O58: the record of stored code only grows, and the fetch looks it up. -/
theorem storedCodeNeverFetchedAgain : Obligations.StoredCodeNeverFetchedAgain := by
  refine ⟨fun s t a hstep => (step_keeps hstep).storedCode a, fun s t a p hreach ha hp hprog hle hlt => ?_⟩
  obtain ⟨hconfig, hstored⟩ := hreach.keeps
  exact State.fetch_modified hp (by rwa [State.setPc_config, hconfig]) ⟨a, hstored a ha, hle, hlt⟩

/-! ### Outputs (60_exceptions.md R373 to R375) -/

/-- A step touches an output to the host only when it runs an instruction that does. -/
theorem step_outputs (hstep : step s = .next t) :
    (t.simOutput = s.simOutput ∧ t.simEnded = s.simEnded ∧ t.softResetReq = s.softResetReq) ∨
      ∃ i, s.aboutToRun i ∧ OutputsByInstr s t i := by
  obtain ⟨-, -, -, rfl | ⟨c, -, rfl⟩ | ⟨w, i, u, hat, hw, hd, hx, rfl⟩⟩ := step_next hstep
  · exact .inl ⟨s.afterEnvironment_simOutput, s.afterEnvironment_simEnded, s.afterEnvironment_softResetReq⟩
  · exact .inl ⟨s.afterEnvironment_simOutput, s.afterEnvironment_simEnded, s.afterEnvironment_softResetReq⟩
  · obtain ⟨ho, he, hq, hes, hqs⟩ := exec_outputs hx
    rw [s.afterEnvironment_simOutput] at ho
    rw [s.afterEnvironment_simEnded] at he hes
    rw [s.afterEnvironment_softResetReq] at hq hqs
    exact .inr ⟨i, ⟨w, hat, hw, hd⟩, by simpa using ho, by simpa using he, by simpa using hq, by simpa using hes,
      by simpa using hqs⟩

/-- Settles O57: what a step keeps, and the outputs one by one. -/
theorem outputsOnlyGrow : Obligations.OutputsOnlyGrow := by
  refine ⟨fun s t hstep => ?_, fun s t i hx => ⟨(exec_outputs hx).simEndedStays, (exec_outputs hx).softResetReqStays⟩⟩
  obtain ⟨hconfig, hinputs, hfree, hsignals, hout, -⟩ := step_keeps hstep
  obtain ⟨hended, hreset, -⟩ := step_next hstep
  refine ⟨hconfig, hinputs, hfree, hout, hsignals, ?_⟩
  rcases step_outputs hstep with ⟨ho, he, hq⟩ | ⟨i, hrun, hby⟩
  · rw [he, hended, hq, hreset]
    exact ⟨fun h => absurd ho h, nofun, nofun⟩
  · refine ⟨fun h => ⟨i, hrun, hby.simOutput h⟩, fun h => ⟨i, hrun, hby.simEnded ?_⟩,
      fun h => ⟨i, hrun, hby.softResetReq ?_⟩⟩
    · rw [h, hended]; decide
    · rw [h, hreset]; decide

/-! ### The counters (R360, R362) -/

/-- A step at an instruction is its meaning on the state after the environment's moves, counted. -/
theorem step_of_decode {w : Word} {i : Instr} (hat : s.atInstruction) (hw : s.afterEnvironment.fetches w)
    (hd : decode s.config.rve s.config.hasM w = .ok i) : step s =
      andThen (exec i s.afterEnvironment) (fun t => .next (t.retire i (s.csrs.mcctr.getLsbD 1))) := by
  have hmcctr : s.afterEnvironment.csrs.mcctr = s.csrs.mcctr := by
    obtain ⟨m, h⟩ := s.after_csrs
    rw [h]
  rw [step_of_atInstruction hat, State.runInstruction, State.fetch_iff.mpr hw]
  simp only [State.afterEnvironment_config, hd, hmcctr]

/-- Settles O23: only its own write changes the counter in an instruction, and the count adds 1 to the others. -/
theorem instructionCounter : Obligations.InstructionCounter := by
  refine ⟨fun s t i hx hw => exec_minstret hx hw, fun s u w i hat hw hd hlist hx => ⟨_, ?_, rfl⟩⟩
  rw [step_of_decode hat hw hd, hx, andThen_of_next, State.retire_eq, State.retire_csrs, countsInMinstret_eq hlist]
  simp only [Bool.and_eq_true, Bool.not_eq_true']

/-- The timer stands still while `mcctr[2]` is 0. -/
theorem tick_of_stopped (h : s.csrs.mcctr.getLsbD 2 = false) : s.tick = s := by
  rw [State.tick, h]
  rfl

/-- How far the timer advances while `mcctr[2]` is 1: by MTIME_TICK where it is fixed, else by a free number. -/
theorem tick_mtime_of_running (h : s.csrs.mcctr.getLsbD 2 = true) : s.tick.csrs.mtime =
    s.csrs.mtime + BitVec.ofNat 64 (s.config.mtimeTick.getD (Config.mtimeAdvance s.freeIndex)) := by
  rw [State.tick, h]
  rfl

/-- Settles O24: the environment ticks, and in an instruction only its own write moves the timer. -/
theorem timerCounter : Obligations.TimerCounter := by
  refine ⟨fun s h => ?stopped, fun s h => ?running, fun s t i => exec_mtime⟩
  case stopped => rw [State.afterEnvironment_csrs, tick_of_stopped h]
  case running =>
    refine ⟨s.config.mtimeTick.getD (Config.mtimeAdvance s.freeIndex), ?_, fun k hk => by rw [hk]; rfl⟩
    rw [State.afterEnvironment_csrs, tick_mtime_of_running h, BitVec.toNat_add, BitVec.toNat_ofNat, Nat.add_mod_mod]

end Sys2Proof.Machine
end

section
/-! The statements of 48_csr.md: what a read returns, what a write changes, what each form combines, what is refused. -/

namespace Sys2Proof.Machine

variable {s t u : State} {a : CsrAddr} {v : Word}

/-! ### The halves of an access (R277) -/

/-- A read changes `rd`, the pc and, on a write-only register, the index of free values. -/
theorem csrAccess_read (s : State) (op : CsrOp) (rd : RegNum) (v : Word) (hi : csrImplemented a = true) :
    s.csrAccess op rd a v true false =
      .next (((if csrWriteOnly a then s.drawn else s).writeReg rd (s.csrRead a)).advance) := by
  simp [State.csrAccess, hi]

theorem csrAccess_unimplemented (s : State) (op : CsrOp) (rd : RegNum) (v : Word) (rds wrs : Bool)
    (hi : csrImplemented a = false) : s.csrAccess op rd a v rds wrs = .refused .unimplementedCsr := by
  simp [State.csrAccess, hi]

/-- An access that writes and may: the write, then `rd`, then the pc. -/
theorem csrAccess_write (s : State) (op : CsrOp) (rd : RegNum) (v : Word) (rds : Bool) (hi : csrImplemented a = true)
    (hop : op = .write ∨ csrWriteOnly a = false) : s.csrAccess op rd a v rds true =
      andThen ((if rds && csrWriteOnly a then s.drawn else s).csrWrite a (csrNewValue op (s.csrRead a) v))
        fun u => .next ((if rds then u.writeReg rd (s.csrRead a) else u).advance) := by
  rcases hop with rfl | hwo
  · simp [State.csrAccess, hi]
  · simp [State.csrAccess, hi, hwo]

/-- A write does not look at the general registers and the index of free values. -/
theorem csrWrite_withRegs (h : s.csrWrite a v = .next u) (rs : Vector Word 32) (f : Nat) :
    State.csrWrite { s with regs := rs, freeIndex := f } a v = .next { u with regs := rs, freeIndex := f } := by
  unfold State.csrWrite at h ⊢
  split at h
  case h_14 =>
    split at h
    case isTrue h1 => cases h; exact if_pos h1
    case isFalse h1 =>
      split at h
      case isTrue h0 => cases h; exact (if_neg h1).trans (if_pos h0)
      case isFalse => cases h
  case h_15 =>
    split at h
    case isTrue h8 => cases h; exact if_pos h8
    case isFalse => cases h
  case h_16 =>
    split at h
    case isTrue h1 => cases h; exact if_pos h1
    case isFalse => cases h
  all_goals cases h <;> rfl

/-- A read-only or write-only half apart, the write of an access is that of the register itself. -/
theorem csrWrite_of_csrAccess {op : CsrOp} {rd : RegNum} {rds : Bool} (h : s.csrAccess op rd a v rds true = .next t) :
    ∃ u, s.csrWrite a (csrNewValue op (s.csrRead a) v) = .next u ∧
      t = { u with regs := t.regs, pc := u.pc + 4, freeIndex := t.freeIndex } := by
  obtain ⟨-, -, u, hu, rfl⟩ := State.csrAccess_next.mp h
  rw [if_pos rfl] at hu
  have hback := csrWrite_withRegs hu s.regs s.freeIndex
  have hs : { (if rds && csrWriteOnly a then s.drawn else s) with regs := s.regs, freeIndex := s.freeIndex } = s := by
    split <;> rfl
  rw [hs] at hback
  refine ⟨_, hback, ?_⟩
  cases rds
  · rfl
  · simp only [if_true]
    rw [State.writeReg_eq]
    rfl

/-- The write of a swap form, on the state before it. -/
theorem csrWrite_of_csrrw {rd rs1 : RegNum} (h : exec (.csrrw rd a rs1) s = .next t) :
    ∃ u, s.csrWrite a (s.readReg rs1) = .next u ∧
      t = { u with regs := t.regs, pc := u.pc + 4, freeIndex := t.freeIndex } :=
  csrWrite_of_csrAccess (op := .write) (rd := rd) (v := s.readReg rs1) (rds := !(rd == 0#5)) h

theorem csrWrite_of_csrrwi {rd : RegNum} {uimm : BitVec 5} (h : exec (.csrrwi rd a uimm) s = .next t) :
    ∃ u, s.csrWrite a (zextUimm uimm) = .next u ∧
      t = { u with regs := t.regs, pc := u.pc + 4, freeIndex := t.freeIndex } :=
  csrWrite_of_csrAccess (op := .write) (rd := rd) (v := zextUimm uimm) (rds := !(rd == 0#5)) h

/-! ### Reads (R275) -/

theorem advance_writeReg (s : State) (r : RegNum) (v : Word) :
    (s.writeReg r v).advance = (s.writeReg r v).setPc (s.pc + 4) := by
  rw [State.advance, State.writeReg_pc]

/-- A result in `rd` that used up a free value: the effect and the frame, but for the index of free values. -/
theorem registerResult_drawn (s : State) (rd : RegNum) (v : Word) :
    RegisterResult s { (s.drawn.writeReg rd v).advance with freeIndex := s.freeIndex } rd v (s.pc + 4) := by
  have heq : { (s.drawn.writeReg rd v).advance with freeIndex := s.freeIndex } =
      (s.writeReg rd v).setPc (s.pc + 4) := by
    unfold State.writeReg
    split <;> rfl
  rw [heq]
  exact registerResult_writeReg s rd v (s.pc + 4)

/-- A read of a register that can be read draws no free value. -/
theorem csrrs_read_readable (s : State) (rd : RegNum) (hi : csrImplemented a = true) (hwo : csrWriteOnly a = false)
    (hv : s.csrRead a = v) :
    ∃ t, exec (.csrrs rd a 0#5) s = .next t ∧ RegisterResult s t rd v (s.pc + 4) := by
  subst hv
  refine ⟨_, csrAccess_read s .set rd _ hi, ?_⟩
  simp only [hwo, Bool.false_eq_true, if_false, advance_writeReg]
  exact registerResult_writeReg s rd (s.csrRead a) (s.pc + 4)

/-- The effect of a read, but for the index of free values. -/
theorem csrrs_read (s : State) (rd : RegNum) (hi : csrImplemented a = true) :
    ∃ t, exec (.csrrs rd a 0#5) s = .next t ∧
      RegisterResult s { t with freeIndex := s.freeIndex } rd (s.csrRead a) (s.pc + 4) := by
  cases hwo : csrWriteOnly a with
  | true =>
    refine ⟨_, csrAccess_read s .set rd _ hi, ?_⟩
    simp only [hwo, if_true]
    exact registerResult_drawn s rd _
  | false =>
    refine ⟨_, csrAccess_read s .set rd _ hi, ?_⟩
    simp only [hwo, Bool.false_eq_true, if_false, advance_writeReg]
    have hfree : { (s.writeReg rd (s.csrRead a)).setPc (s.pc + 4) with freeIndex := s.freeIndex } =
        (s.writeReg rd (s.csrRead a)).setPc (s.pc + 4) := by
      rw [State.writeReg_eq]
      rfl
    rw [hfree]
    exact registerResult_writeReg s rd (s.csrRead a) (s.pc + 4)

/-! The fields of a reading as bits, the halves of a reading as numbers. -/

theorem getLsbD_bitAt (b : Bool) {k : Nat} (hk : k < 32) (j : Nat) : (bitAt b k).getLsbD j = (b && decide (j = k)) := by
  cases b with
  | false => simp [bitAt]
  | true =>
    have hbit : bitAt true k = BitVec.twoPow 32 k := by
      apply BitVec.eq_of_toNat_eq
      simp [bitAt, BitVec.toNat_twoPow]
    simp [hbit, BitVec.getLsbD_twoPow, hk, eq_comm]

theorem mstatus_fields (mpie mie : Bool) :
    bitAt mpie 7 ||| bitAt mie 3 = 0#24 ++ BitVec.ofBool mpie ++ 0#3 ++ BitVec.ofBool mie ++ 0#3 := by
  cases mpie <;> cases mie <;> decide

/-- `mie` and `mip` have their fields at the same bits. -/
theorem interrupt_fields (external timer software : Bool) :
    bitAt external 11 ||| bitAt timer 7 ||| bitAt software 3 =
      0#20 ++ BitVec.ofBool external ++ 0#3 ++ BitVec.ofBool timer ++ 0#3 ++ BitVec.ofBool software ++ 0#3 := by
  cases external <;> cases timer <;> cases software <;> decide

theorem low_half_eq_ofNat (x : BitVec 64) : x.extractLsb' 0 32 = BitVec.ofNat 32 x.toNat := by
  apply BitVec.eq_of_toNat_eq
  simp [BitVec.extractLsb'_toNat]

theorem high_half_eq_ofNat (x : BitVec 64) : x.extractLsb' 32 32 = BitVec.ofNat 32 (x.toNat / 2 ^ 32) := by
  apply BitVec.eq_of_toNat_eq
  simp [BitVec.extractLsb'_toNat, Nat.shiftRight_eq_div_pow]

/-- `mcctr` stands under 27 zeros. -/
theorem mcctr_field (c : BitVec 5) : c.setWidth 32 = 0#27 ++ c := by
  apply BitVec.eq_of_toNat_eq
  rw [BitVec.toNat_setWidth_of_le (by decide), BitVec.toNat_append]
  simp

theorem csrImplemented_iff : csrImplemented a = true ↔ a ∈ csrAddresses := List.contains_iff_mem

/-- Settles O25: each register's reading is its fields, and the address decides what else an access does. -/
theorem csrReadTable : Obligations.CsrReadTable := by
  intro s rd
  refine ⟨fun a v hmem => ?_, fun a ha => ?_, fun a ha => ?_⟩
  · simp only [List.mem_cons, Prod.mk.injEq, List.not_mem_nil, or_false] at hmem
    rcases hmem with ⟨rfl, rfl⟩ | ⟨rfl, rfl⟩ | ⟨rfl, rfl⟩ | ⟨rfl, rfl⟩ | ⟨rfl, rfl⟩ | ⟨rfl, rfl⟩ | ⟨rfl, rfl⟩ |
      ⟨rfl, rfl⟩ | ⟨rfl, rfl⟩ | ⟨rfl, rfl⟩ | ⟨rfl, rfl⟩ | ⟨rfl, rfl⟩ | ⟨rfl, rfl⟩ | ⟨rfl, rfl⟩ | ⟨rfl, rfl⟩ |
      ⟨rfl, rfl⟩ | ⟨rfl, rfl⟩ | ⟨rfl, rfl⟩ | ⟨rfl, rfl⟩ | ⟨rfl, rfl⟩ <;>
      refine csrrs_read_readable s rd (by decide) (by decide) ?_
    · exact mstatus_fields ..
    · exact s.csrRead_misa
    · exact interrupt_fields ..
    · exact s.csrRead_mtvec
    · exact s.csrRead_mscratch
    · exact s.csrRead_mepc
    · exact s.csrRead_mcause
    · exact s.csrRead_mtval
    · exact interrupt_fields ..
    · exact low_half_eq_ofNat _
    · exact high_half_eq_ofNat _
    · exact low_half_eq_ofNat _
    · exact high_half_eq_ofNat _
    · exact low_half_eq_ofNat _
    · exact high_half_eq_ofNat _
    · exact mcctr_field _
    · exact s.csrRead_mvendorid
    · exact s.csrRead_marchid
    · exact s.csrRead_mimpid
    · exact s.csrRead_mhartid
  · have hi : csrImplemented a = true := by
      simp only [List.mem_cons, List.not_mem_nil, or_false] at ha
      rcases ha with rfl | rfl | rfl <;> rfl
    obtain ⟨t, ht, hres⟩ := csrrs_read s rd hi
    exact ⟨t, _, ht, hres⟩
  · refine csrAccess_unimplemented s _ _ _ _ _ (Bool.not_eq_true _ ▸ ?_)
    rw [csrImplemented_iff]
    exact ha

/-! ### Writes (R276) -/

theorem zextUimm_eq_ofNat (uimm : BitVec 5) : zextUimm uimm = BitVec.ofNat 32 uimm.toNat :=
  (BitVec.ofNat_toNat ..).symm

/-- A form without a read half is the write and the pc. -/
theorem exec_pureCsrWrite {i : Instr} (hi : csrImplemented a = true) (h : PureCsrWrite s a v i) :
    exec i s = andThen (s.csrWrite a v) fun u => .next u.advance := by
  rcases h with ⟨rs1, rfl, rfl⟩ | ⟨uimm, rfl, rfl⟩
  · exact csrAccess_write s .write 0#5 _ false hi (.inl rfl)
  · rw [← zextUimm_eq_ofNat]
    exact csrAccess_write s .write 0#5 _ false hi (.inl rfl)

theorem exec_pureCsrWrite_unimplemented {i : Instr} (hi : csrImplemented a = false) (h : PureCsrWrite s a v i) :
    exec i s = .refused .unimplementedCsr := by
  rcases h with ⟨rs1, rfl, -⟩ | ⟨uimm, rfl, -⟩ <;> exact csrAccess_unimplemented s _ _ _ _ _ hi

/-- A write that stores in the control registers alone. -/
theorem exec_pureCsrWrite_csrs {i : Instr} {c : Csrs} (hi : csrImplemented a = true)
    (hw : s.csrWrite a v = .next { s with csrs := c }) (h : PureCsrWrite s a v i) :
    exec i s = .next { s with csrs := c, pc := s.pc + 4 } := by
  rw [exec_pureCsrWrite hi h, hw]
  rfl

/-! Words and their parts as numbers. -/

/-- Two halves joined, as a number. -/
theorem toNat_append_word (x y : Word) : (x ++ y).toNat = x.toNat * 2 ^ 32 + y.toNat := by
  rw [BitVec.toNat_append, Nat.shiftLeft_eq, Nat.mul_comm, ← Nat.two_pow_add_eq_or_of_lt y.isLt]

theorem withLow_eq_ofNat (x : BitVec 64) (v : Word) :
    withLow x v = BitVec.ofNat 64 (x.toNat / 2 ^ 32 * 2 ^ 32 + v.toNat) := by
  apply BitVec.eq_of_toNat_eq
  have := x.isLt
  have := v.isLt
  rw [withLow, high_half_eq_ofNat, toNat_append_word, BitVec.toNat_ofNat, BitVec.toNat_ofNat]
  omega

theorem withHigh_eq_ofNat (x : BitVec 64) (v : Word) :
    withHigh x v = BitVec.ofNat 64 (v.toNat * 2 ^ 32 + x.toNat % 2 ^ 32) := by
  apply BitVec.eq_of_toNat_eq
  have := v.isLt
  rw [withHigh, low_half_eq_ofNat, toNat_append_word, BitVec.toNat_ofNat, BitVec.toNat_ofNat]
  omega

theorem mtvecBase_eq_ofNat (v : Word) : v.extractLsb' 2 30 = BitVec.ofNat 30 (v.toNat / 4) := by
  apply BitVec.eq_of_toNat_eq
  simp [BitVec.extractLsb'_toNat, Nat.shiftRight_eq_div_pow]

theorem toNat_eq_iff {n : Nat} (hn : n < 2 ^ 32) (v : Word) : v.toNat = n ↔ v = BitVec.ofNat 32 n := by
  rw [← BitVec.toNat_inj, BitVec.toNat_ofNat, Nat.mod_eq_of_lt hn]

/-- A byte for `mprints` has nothing above its low 8 bits (60_exceptions.md R374). -/
theorem toNat_lt_iff_high_zero (v : Word) : v.toNat < 256 ↔ v.extractLsb' 8 24 = 0#24 := by
  rw [← BitVec.toNat_inj, BitVec.extractLsb'_toNat, Nat.shiftRight_eq_div_pow, BitVec.toNat_ofNat]
  have := v.isLt
  omega

/-- Settles O26: a form without a read half is the write of its register, read off the table. -/
theorem csrWriteTable : Obligations.CsrWriteTable := by
  intro s v
  refine ⟨fun a c i hi hmem => ?table, fun i hi => ?mip, fun i hi => ?msip, fun i hi => ?mprints, fun i hi => ?mends,
    fun i hi => ?mcctr, fun a i himpl hi => exec_pureCsrWrite_unimplemented himpl hi⟩
  case table =>
    simp only [List.mem_cons, Prod.mk.injEq, List.not_mem_nil, or_false] at hmem
    rcases hmem with ⟨rfl, rfl⟩ | ⟨rfl, rfl⟩ | ⟨rfl, rfl⟩ | ⟨rfl, rfl⟩ | ⟨rfl, rfl⟩ | ⟨rfl, rfl⟩ | ⟨rfl, rfl⟩ |
      ⟨rfl, rfl⟩ | ⟨rfl, rfl⟩ | ⟨rfl, rfl⟩ | ⟨rfl, rfl⟩ | ⟨rfl, rfl⟩ | ⟨rfl, rfl⟩ | ⟨rfl, rfl⟩ | ⟨rfl, rfl⟩ |
      ⟨rfl, rfl⟩ | ⟨rfl, rfl⟩ | ⟨rfl, rfl⟩ <;>
      refine exec_pureCsrWrite_csrs (by decide) ?_ hi
    · exact s.csrWrite_mstatus v
    · exact s.csrWrite_misa v
    · exact s.csrWrite_mvendorid v
    · exact s.csrWrite_marchid v
    · exact s.csrWrite_mimpid v
    · exact s.csrWrite_mhartid v
    · exact s.csrWrite_mie v
    · rw [s.csrWrite_mtvec, mtvecBase_eq_ofNat]
    · exact s.csrWrite_mscratch v
    · exact s.csrWrite_mepc v
    · exact s.csrWrite_mcause v
    · exact s.csrWrite_mtval v
    · rw [s.csrWrite_minstret, withLow_eq_ofNat]
    · rw [s.csrWrite_minstreth, withHigh_eq_ofNat]
    · rw [s.csrWrite_mtime, withLow_eq_ofNat]
    · rw [s.csrWrite_mtimeh, withHigh_eq_ofNat]
    · rw [s.csrWrite_mtimecmp, withLow_eq_ofNat]
    · rw [s.csrWrite_mtimecmph, withHigh_eq_ofNat]
  case mip => rw [exec_pureCsrWrite (by decide) hi, s.csrWrite_mip, andThen_of_refused]
  case msip =>
    rw [exec_pureCsrWrite (by decide) hi, s.csrWrite_msip]
    simp only [toNat_eq_iff (show 1 < 2 ^ 32 by decide), toNat_eq_iff (show 0 < 2 ^ 32 by decide)]
    split
    · rfl
    · split <;> rfl
  case mprints =>
    rw [exec_pureCsrWrite (by decide) hi, s.csrWrite_mprints]
    simp only [toNat_lt_iff_high_zero]
    split <;> rfl
  case mends =>
    rw [exec_pureCsrWrite (by decide) hi, s.csrWrite_mends]
    simp only [toNat_eq_iff (show 1 < 2 ^ 32 by decide)]
    split <;> rfl
  case mcctr =>
    rw [exec_pureCsrWrite (by decide) hi, s.csrWrite_mcctr]
    rfl

/-! ### Reading after a write (10_state.md R31, R33, R42, R43, R50) -/

/-- A bit of a word that is written under a mask. -/
theorem eq_masked_of_bits {x m old : Word} (r : Word)
    (h : ∀ k < 32, r.getLsbD k = if m.getLsbD k then x.getLsbD k else old.getLsbD k) :
    r = (x &&& m) ||| (old &&& ~~~m) := by
  ext k hk
  have hbit := h k hk
  simp only [BitVec.getLsbD_eq_getElem hk] at hbit
  rw [hbit, BitVec.getElem_or, BitVec.getElem_and, BitVec.getElem_and, BitVec.getElem_not]
  cases m[k] <;> simp

theorem masked_ones (v old : Word) : (v &&& 0xFFFFFFFF#32) ||| (old &&& ~~~0xFFFFFFFF#32) = v := by
  have hm : 0xFFFFFFFF#32 = BitVec.allOnes 32 := by decide
  rw [hm, BitVec.and_allOnes, BitVec.not_allOnes, BitVec.and_zero, BitVec.or_zero]

theorem masked_zero (v old : Word) : (v &&& 0#32) ||| (old &&& ~~~0#32) = old := by
  rw [BitVec.not_zero, BitVec.and_allOnes, BitVec.and_zero, BitVec.zero_or]

/-- `mstatus` (R33). -/
theorem masked_mstatus (v : Word) (mpie mie : Bool) :
    bitAt (v.getLsbD 7) 7 ||| bitAt (v.getLsbD 3) 3 =
      (v &&& 0x00000088#32) ||| ((bitAt mpie 7 ||| bitAt mie 3) &&& ~~~0x00000088#32) := by
  have hmask : ∀ k < 32, (0x00000088#32).getLsbD k = (decide (k = 7) || decide (k = 3)) := by decide
  refine eq_masked_of_bits _ fun k hk => ?_
  simp only [hmask k hk, BitVec.getLsbD_or, getLsbD_bitAt _ (show 7 < 32 by decide),
    getLsbD_bitAt _ (show 3 < 32 by decide)]
  by_cases h7 : k = 7
  · simp [h7]
  · by_cases h3 : k = 3 <;> simp [h3, h7]

/-- `mie` (R42). -/
theorem masked_mie (v : Word) (meie mtie msie : Bool) :
    bitAt (v.getLsbD 11) 11 ||| bitAt (v.getLsbD 7) 7 ||| bitAt (v.getLsbD 3) 3 =
      (v &&& 0x00000888#32) ||| ((bitAt meie 11 ||| bitAt mtie 7 ||| bitAt msie 3) &&& ~~~0x00000888#32) := by
  have hmask : ∀ k < 32, (0x00000888#32).getLsbD k = (decide (k = 11) || decide (k = 7) || decide (k = 3)) := by decide
  refine eq_masked_of_bits _ fun k hk => ?_
  simp only [hmask k hk, BitVec.getLsbD_or, getLsbD_bitAt _ (show 11 < 32 by decide),
    getLsbD_bitAt _ (show 7 < 32 by decide), getLsbD_bitAt _ (show 3 < 32 by decide)]
  by_cases h11 : k = 11
  · simp [h11]
  · by_cases h7 : k = 7
    · simp [h7]
    · by_cases h3 : k = 3 <;> simp [h3, h7, h11]

/-- `mtvec` (R43). -/
theorem masked_mtvec (v : Word) (base : BitVec 30) : v.extractLsb' 2 30 ++ 1#2 =
    (v &&& 0xFFFFFFFC#32) ||| ((base ++ 1#2) &&& ~~~0xFFFFFFFC#32) := by
  have hmask : ∀ k < 32, (0xFFFFFFFC#32).getLsbD k = decide (2 ≤ k) := by decide
  refine eq_masked_of_bits (old := base ++ 1#2) _ fun k hk => ?_
  rw [hmask k hk, BitVec.getLsbD_append, BitVec.getLsbD_append, BitVec.getLsbD_extractLsb']
  by_cases h2 : k < 2
  · simp [h2]
  · have hsub : k - 2 < 30 := by omega
    have hadd : 2 + (k - 2) = k := by omega
    simp [h2, hsub, hadd, Nat.not_lt.mp h2]

/-- `mcctr` (R50). -/
theorem masked_mcctr (v : Word) (c : BitVec 5) : (v.setWidth 5).setWidth 32 =
    (v &&& 0x0000001F#32) ||| (c.setWidth 32 &&& ~~~0x0000001F#32) := by
  have hmask : ∀ k < 32, (0x0000001F#32).getLsbD k = decide (k < 5) := by decide
  refine eq_masked_of_bits _ fun k hk => ?_
  rw [hmask k hk, BitVec.getLsbD_setWidth, BitVec.getLsbD_setWidth, BitVec.getLsbD_setWidth]
  by_cases h5 : k < 5
  · simp [h5, hk]
  · simp [h5, BitVec.getLsbD_of_ge c k (Nat.not_lt.mp h5)]

/-- The register written reads as written in its writable bits and as before in the others. -/
theorem csrRead_csrWrite_same (h : s.csrWrite a v = .next u) (hwo : csrWriteOnly a = false) :
    u.csrRead a = (v &&& csrWriteMask a) ||| (s.csrRead a &&& ~~~csrWriteMask a) := by
  unfold State.csrWrite at h
  split at h
  case h_1 => cases h; exact masked_mstatus ..
  case h_2 | h_3 | h_4 | h_5 | h_6 => cases h; exact (masked_zero ..).symm
  case h_7 => cases h; exact masked_mie ..
  case h_8 => cases h; exact masked_mtvec ..
  case h_9 | h_10 | h_11 | h_12 => cases h; exact (masked_ones ..).symm
  case h_13 => cases h
  case h_14 | h_15 | h_16 => cases hwo
  case h_17 | h_19 | h_21 => cases h; exact (withLow_low ..).trans (masked_ones ..).symm
  case h_18 | h_20 | h_22 => cases h; exact (withHigh_high ..).trans (masked_ones ..).symm
  case h_23 => cases h; exact masked_mcctr ..
  case h_24 => cases h

/-- Every other register reads as before: a write stores in one field or one half, which no other address reads, but
for `mip`, which is computed from several. -/
theorem csrRead_csrWrite_other {b : CsrAddr} (h : s.csrWrite a v = .next u) (hne : b ≠ a) (hmip : b ≠ 0x344#12)
    (hwo : csrWriteOnly b = false) : u.csrRead b = s.csrRead b := by
  unfold State.csrWrite at h
  split at h
  all_goals (repeat' split at h)
  all_goals cases h <;> unfold State.csrRead <;> split <;> first | rfl | contradiction | simp

/-- A reading is of the control registers, the pending request, the parameters and the index of free values. -/
theorem csrRead_congr (hcsrs : t.csrs = s.csrs) (hpend : t.extPending = s.extPending) (hconf : t.config = s.config)
    (hfree : t.freeIndex = s.freeIndex) (b : CsrAddr) : t.csrRead b = s.csrRead b := by
  unfold State.csrRead State.meip State.mtip
  rw [hcsrs, hpend, hconf, hfree]

/-- Settles O27: `csrrw x0` reads nothing, so what the write stores is what a read finds. -/
theorem csrReadAfterWrite : Obligations.CsrReadAfterWrite := by
  intro s t a rs1 hx
  have hi : csrImplemented a = true := (State.csrAccess_next.mp hx).1
  rw [exec_pureCsrWrite hi (.inl ⟨rs1, rfl, rfl⟩), andThen_next] at hx
  obtain ⟨u, hw, hu⟩ := hx
  cases hu
  simp only [csrRead_congr (s := u) (t := u.advance) rfl rfl rfl rfl]
  exact ⟨fun hwo => csrRead_csrWrite_same hw hwo, fun b hne hmip hwo => csrRead_csrWrite_other hw hne hmip hwo⟩

/-! ### The forms with both halves (R277 to R283) -/

/-- Every write with a meaning completes. -/
theorem exists_csrWrite (h : csrWriteOk a v) : ∃ u, s.csrWrite a v = .next u := by
  obtain ⟨hi, hmip, hmsip, hmprints, hmends⟩ := h
  unfold State.csrWrite
  split
  case h_13 => exact absurd rfl hmip
  case h_14 => rcases hmsip rfl with rfl | rfl <;> exact ⟨_, rfl⟩
  case h_15 => exact ⟨_, if_pos ((toNat_lt_iff_high_zero v).mp (hmprints rfl))⟩
  case h_16 => exact ⟨_, if_pos (hmends rfl)⟩
  case h_24 => simp_all [csrImplemented_iff, csrAddresses]
  all_goals exact ⟨_, rfl⟩

/-- An access with a write that completes: `rd` gets the old value where the access reads, the rest is the write's. -/
theorem csrAccess_of_csrWrite {op : CsrOp} {rd : RegNum} {rds : Bool} (hi : csrImplemented a = true)
    (hop : op = .write ∨ csrWriteOnly a = false) (hw : s.csrWrite a (csrNewValue op (s.csrRead a) v) = .next u)
    (hrd : rds = true ∨ rd = 0#5) :
    ∃ t, s.csrAccess op rd a v rds true = .next t ∧
      (∀ r, t.readReg r = if r = rd ∧ rd ≠ 0#5 then s.csrRead a else s.readReg r) ∧
      t = { u.advance with regs := t.regs, freeIndex := t.freeIndex } := by
  have hdrawn : (if rds && csrWriteOnly a then s.drawn else s) =
      { s with regs := s.regs, freeIndex := if rds && csrWriteOnly a then s.freeIndex + 1 else s.freeIndex } := by
    split <;> rfl
  rw [csrAccess_write s op rd v rds hi hop, hdrawn, csrWrite_withRegs hw, andThen_of_next]
  refine ⟨_, rfl, fun r => ?_, ?_⟩
  · cases rds with
    | true =>
      rw [if_pos rfl, State.readReg_advance, State.readReg_writeReg]
      rfl
    | false =>
      have hzero : rd = 0#5 := hrd.resolve_left Bool.false_ne_true
      simp only [Bool.false_eq_true, if_false, State.readReg_advance, hzero, ne_eq, not_true_eq_false, and_false]
      rfl
  · cases rds with
    | true => rw [if_pos rfl, State.writeReg_eq]; rfl
    | false => rfl

/-- A swap form: the write of its operand, the old value in `rd` unless that is x0 (R278, R281). -/
theorem csrResult_of_swap (rd : RegNum) {i j : Instr}
    (hx : exec i s = s.csrAccess .write rd a v (!(rd == 0#5)) true) (hpure : PureCsrWrite s a v j)
    (hok : csrWriteOk a v) :
    ∃ t u, exec i s = .next t ∧ exec j s = .next u ∧ CsrResult s t rd (s.csrRead a) u := by
  obtain ⟨u, hw⟩ := exists_csrWrite (s := s) hok
  have hrd : (!(rd == 0#5)) = true ∨ rd = 0#5 := by by_cases h : rd = 0#5 <;> simp [h]
  obtain ⟨t, ht, hregs, hrest⟩ := csrAccess_of_csrWrite hok.1 (.inl rfl) hw hrd
  refine ⟨t, u.advance, hx.trans ht, by rw [exec_pureCsrWrite hok.1 hpure, hw]; rfl, hregs, ?_⟩
  rw [hrest]

/-- Settles O28: the write of a swap form is that of the form with x0 as `rd`. -/
theorem csrSwapForms : Obligations.CsrSwapForms := by
  intro s rd rs1 a uimm
  refine ⟨encodedAs_formatI (.csrrw rd · rs1) rfl fun _ _ _ => rfl,
    encodedAs_formatI (.csrrwi rd · uimm) rfl fun _ _ _ => rfl, fun hok => ?_, fun hok => ?_⟩
  · exact csrResult_of_swap rd rfl (.inl ⟨rs1, rfl, rfl⟩) hok
  · refine csrResult_of_swap rd ?_ (.inr ⟨uimm, rfl, rfl⟩) hok
    rw [← zextUimm_eq_ofNat]
    rfl

/-- A set or clear form with an operand: the write of the combined value, the old value in `rd` (R279, R280). -/
theorem csrResult_of_setClear (rd : RegNum) {i : Instr} {op : CsrOp} {x : Word} {wrs : Bool}
    (hx : exec i s = s.csrAccess op rd a x true wrs) (hwrs : wrs = true) (hv : v = csrNewValue op (s.csrRead a) x)
    (hi : csrImplemented a = true) (hwo : csrWriteOnly a = false) (hmip : a ≠ 0x344#12) :
    ∃ t u, exec i s = .next t ∧ exec (.csrrw 0#5 a 31#5) (s.writeReg 31#5 v) = .next u ∧
      CsrResult s t rd (s.csrRead a) u := by
  subst hwrs hv
  have hok : csrWriteOk a (csrNewValue op (s.csrRead a) x) := by
    refine ⟨hi, hmip, ?_, ?_, ?_⟩ <;> rintro rfl <;> cases hwo
  obtain ⟨u, hw⟩ := exists_csrWrite (s := s) hok
  obtain ⟨t, ht, hregs, hrest⟩ := csrAccess_of_csrWrite hi (.inr hwo) hw (.inl rfl)
  have hwrite : exec (.csrrw 0#5 a 31#5) (s.writeReg 31#5 (csrNewValue op (s.csrRead a) x)) = .next (State.advance
      { u with regs := (s.writeReg 31#5 (csrNewValue op (s.csrRead a) x)).regs, freeIndex := s.freeIndex }) := by
    rw [exec_pureCsrWrite hi (.inl ⟨31#5, rfl, rfl⟩), State.readReg_writeReg, if_pos (by decide), State.writeReg_eq,
      csrWrite_withRegs hw _ s.freeIndex, andThen_of_next]
  refine ⟨t, _, hx.trans ht, hwrite, hregs, ?_⟩
  rw [hrest]
  rfl

/-- Settles O29: with an operand a swap of the combined value, without one a read. -/
theorem csrSetClearForms : Obligations.CsrSetClearForms := by
  intro s rd rs1 a uimm
  refine ⟨encodedAs_formatI (.csrrs rd · rs1) rfl fun _ _ _ => rfl,
    encodedAs_formatI (.csrrc rd · rs1) rfl fun _ _ _ => rfl,
    encodedAs_formatI (.csrrsi rd · uimm) rfl fun _ _ _ => rfl,
    encodedAs_formatI (.csrrci rd · uimm) rfl fun _ _ _ => rfl, fun hi hwo hmip i v hform => ?operand, fun hi => ?none⟩
  case operand =>
    have hne : ∀ {r : RegNum}, r ≠ 0#5 → (!(r == 0#5)) = true := by simp
    rw [← zextUimm_eq_ofNat] at hform
    rcases hform with ⟨h, rfl, hv⟩ | ⟨h, rfl, hv⟩ | ⟨h, rfl, hv⟩ | ⟨h, rfl, hv⟩
    · exact csrResult_of_setClear (op := .set) rd rfl (hne h) hv hi hwo hmip
    · exact csrResult_of_setClear (op := .clear) rd rfl (hne h) hv hi hwo hmip
    · exact csrResult_of_setClear (op := .set) rd rfl (hne h) hv hi hwo hmip
    · exact csrResult_of_setClear (op := .clear) rd rfl (hne h) hv hi hwo hmip
  case none =>
    have hread : ∀ op v, s.csrAccess op rd a v true false = exec (.csrrs rd a 0#5) s := fun op v =>
      (csrAccess_read s op rd v hi).trans (csrAccess_read s .set rd _ hi).symm
    exact ⟨csrrs_read s rd hi, hread .clear _, hread .set _, hread .clear _⟩

/-! ### Refusals (R276, R277; 10_state.md R32, R41) -/

/-- A refused write refuses the access. -/
theorem csrAccess_refused {op : CsrOp} {rd : RegNum} {x : Refusal} (rds : Bool) (hi : csrImplemented a = true)
    (hop : op = .write ∨ csrWriteOnly a = false)
    (hw : ∀ q : State, q.csrWrite a (csrNewValue op (s.csrRead a) v) = .refused x) :
    s.csrAccess op rd a v rds true = .refused x := by
  rw [csrAccess_write s op rd v rds hi hop, hw, andThen_of_refused]

theorem csrrw_refused (rd rs1 : RegNum) {x : Refusal} (hi : csrImplemented a = true)
    (hw : ∀ q : State, q.csrWrite a (s.readReg rs1) = .refused x) : exec (.csrrw rd a rs1) s = .refused x :=
  csrAccess_refused (op := .write) (v := s.readReg rs1) (!(rd == 0#5)) hi (.inl rfl) hw

theorem csrrwi_refused (rd : RegNum) {uimm : BitVec 5} {x : Refusal} (hi : csrImplemented a = true)
    (hw : ∀ q : State, q.csrWrite a (zextUimm uimm) = .refused x) : exec (.csrrwi rd a uimm) s = .refused x :=
  csrAccess_refused (op := .write) (v := zextUimm uimm) (!(rd == 0#5)) hi (.inl rfl) hw

theorem csrWrite_msip_refused (s : State) (h : 1 < v.toNat) : s.csrWrite 0x345#12 v = .refused .msipValue := by
  rw [State.csrWrite_msip, if_neg, if_neg] <;> rintro rfl <;> exact absurd h (by decide)

theorem csrWrite_mprints_refused (s : State) (h : 255 < v.toNat) : s.csrWrite 0x346#12 v = .refused .mprintsValue := by
  rw [State.csrWrite_mprints, if_neg]
  rw [← toNat_lt_iff_high_zero]
  omega

theorem csrWrite_mends_refused (s : State) (h : v.toNat ≠ 1) : s.csrWrite 0x347#12 v = .refused .mendsValue := by
  rw [State.csrWrite_mends, if_neg]
  rintro rfl
  exact h rfl

theorem setClear_mip_refused (s : State) (op : CsrOp) (rd : RegNum) (v : Word) {wrs : Bool} (hwrs : wrs = true) :
    s.csrAccess op rd 0x344#12 v true wrs = .refused .writeToMip := by
  subst hwrs
  exact csrAccess_refused true rfl (.inr rfl) fun q => q.csrWrite_mip _

theorem csrImplemented_of_writeOnly (h : csrWriteOnly a = true) : csrImplemented a = true := by
  simp only [csrWriteOnly, Bool.or_eq_true, beq_iff_eq] at h
  rcases h with (rfl | rfl) | rfl <;> rfl

/-- A set or clear form does not write a write-only register (D34). -/
theorem setClear_writeOnly_refused (s : State) (op : CsrOp) (rd : RegNum) (v : Word) {wrs : Bool} (hwrs : wrs = true)
    (hop : op ≠ .write) (hwo : csrWriteOnly a = true) :
    s.csrAccess op rd a v true wrs = .refused .setClearOnWriteOnlyCsr := by
  simp [State.csrAccess, csrImplemented_of_writeOnly hwo, hwo, hop, hwrs]

/-- Settles O30: the address first, then the form, then the value. -/
theorem csrRefusals : Obligations.CsrRefusals := by
  intro s rd rs1 a uimm
  have hne : ∀ {r : RegNum}, r ≠ 0#5 → (!(r == 0#5)) = true := by simp
  refine ⟨fun hi => ?address, ⟨?mipRegister, ?mipImmediate, fun h => ?mipMaskRegister, fun h => ?mipMaskImmediate⟩,
    fun hwo => ⟨fun h => ?maskRegister, fun h => ?maskImmediate⟩, fun h => ?_, fun h => ?_, fun h => ?_, fun h => ?_,
    fun h => ?_⟩
  case address =>
    have hstop := fun op v rds wrs => csrAccess_unimplemented s op rd v rds wrs hi
    exact ⟨hstop .., hstop .., hstop .., hstop .., hstop .., hstop ..⟩
  case mipRegister => exact csrrw_refused rd rs1 rfl fun q => q.csrWrite_mip _
  case mipImmediate => exact csrrwi_refused rd rfl fun q => q.csrWrite_mip _
  case mipMaskRegister =>
    exact ⟨setClear_mip_refused s .set rd (s.readReg rs1) (hne h),
      setClear_mip_refused s .clear rd (s.readReg rs1) (hne h)⟩
  case mipMaskImmediate =>
    exact ⟨setClear_mip_refused s .set rd (zextUimm uimm) (hne h),
      setClear_mip_refused s .clear rd (zextUimm uimm) (hne h)⟩
  case maskRegister =>
    exact ⟨setClear_writeOnly_refused s .set rd (s.readReg rs1) (hne h) (by decide) hwo,
      setClear_writeOnly_refused s .clear rd (s.readReg rs1) (hne h) (by decide) hwo⟩
  case maskImmediate =>
    exact ⟨setClear_writeOnly_refused s .set rd (zextUimm uimm) (hne h) (by decide) hwo,
      setClear_writeOnly_refused s .clear rd (zextUimm uimm) (hne h) (by decide) hwo⟩
  · exact csrrw_refused rd rs1 rfl fun q => csrWrite_msip_refused q h
  · exact csrrwi_refused rd rfl fun q => csrWrite_msip_refused q (by rwa [toNat_zextUimm])
  · exact csrrw_refused rd rs1 rfl fun q => csrWrite_mprints_refused q h
  · exact csrrw_refused rd rs1 rfl fun q => csrWrite_mends_refused q h
  · exact csrrwi_refused rd rfl fun q => csrWrite_mends_refused q (by rwa [toNat_zextUimm])

/-! ### The requests made through `msip`, `mcctr` and `mends` (60_exceptions.md R328, R373, R375) -/

/-- What `mip` shows of the software interrupt (R328). -/
theorem getLsbD_mip_msip (s : State) : (s.csrRead 0x344#12).getLsbD 3 = s.csrs.msipPending := by
  rw [State.csrRead_mip]
  simp only [BitVec.getLsbD_or, getLsbD_bitAt _ (show 11 < 32 by decide), getLsbD_bitAt _ (show 7 < 32 by decide),
    getLsbD_bitAt _ (show 3 < 32 by decide)]
  simp

/-- What `mip` shows of the external interrupt (R330). -/
theorem getLsbD_mip_meip (s : State) : (s.csrRead 0x344#12).getLsbD 11 = s.extPending.isSome := by
  rw [State.csrRead_mip]
  simp only [BitVec.getLsbD_or, getLsbD_bitAt _ (show 11 < 32 by decide), getLsbD_bitAt _ (show 7 < 32 by decide),
    getLsbD_bitAt _ (show 3 < 32 by decide)]
  simp [State.meip]

/-- Settles O31: each request stands in the state that the step's own checks look at. -/
theorem customCsrEffects : Obligations.CustomCsrEffects := by
  refine ⟨fun s t rd hx => ?msip, fun s t rd rs1 hended hbit hx => ?mcctr, fun s t rd hx => ?mends⟩
  case msip =>
    obtain ⟨u, hw, ht⟩ := csrWrite_of_csrrwi hx
    cases hw
    have hcsrs : t.csrs = { s.csrs with msipPending := true } := by rw [ht]
    have hpend : t.csrs.msipPending = true := by rw [hcsrs]
    refine ⟨(getLsbD_mip_msip t).trans hpend, fun hmsie hmie => ?_, fun c => hpend, fun v hv => ?_, fun v hv => ?_⟩
    · exact State.mem_takeable.mpr ⟨by rw [hcsrs]; exact hmie, .inl ⟨rfl, hpend, by rw [hcsrs]; exact hmsie⟩⟩
    · cases hv
      exact hpend
    · obtain ⟨x, hx0, hv0⟩ := csrWrite_of_csrrwi hv
      cases hx0
      have hoff : v.csrs.msipPending = false := by rw [hv0]
      refine ⟨(getLsbD_mip_msip v).trans hoff, fun hmem => ?_⟩
      obtain ⟨-, ⟨-, hon, -⟩ | ⟨h, -⟩ | ⟨-, id, h, -⟩⟩ := State.mem_takeable.mp hmem
      · exact Bool.false_ne_true (hoff.symm.trans hon)
      · cases h
      · cases h
  case mcctr =>
    obtain ⟨u, hw, ht⟩ := csrWrite_of_csrrw hx
    cases hw
    have hreq : t.softResetReq = true := by
      rw [ht]
      exact (congrArg (s.softResetReq || ·) hbit).trans (Bool.or_true _)
    have hend : t.simEnded = false := by rw [ht]; exact hended
    refine ⟨?_, hreq, step_of_softResetReq hend hreq⟩
    rw [ht]
    exact (BitVec.getLsbD_setWidth ..).trans hbit
  case mends =>
    obtain ⟨u, hw, ht⟩ := csrWrite_of_csrrwi hx
    cases hw
    exact step_of_simEnded (by rw [ht])

end Sys2Proof.Machine
end

section
/-! The statements of 42_load.md, 43_store.md and 20_memory.md: what a load gives, what a store leaves, where an access
stops, what is fetched after a store. -/

namespace Sys2Proof.Machine

variable {s t : State} {i : Instr}

/-! ### Addresses -/

/-- The effective address over the integers, modulo 2^32 (42_load.md R206). -/
theorem effectiveAddress_eq_ofInt (s : State) (rs1 : RegNum) (imm : BitVec 12) :
    s.effectiveAddress rs1 imm = BitVec.ofInt 32 ((s.readReg rs1).toNat + imm.toInt) := by
  rw [State.effectiveAddress, BitVec.ofInt_add, BitVec.ofInt_natCast, BitVec.ofNat_toNat, BitVec.setWidth_eq]
  rfl

/-! ### What a load reads (42_load.md R200 to R204; 20_memory.md R84) -/

theorem toInt_append_byte (x b : Byte) : (x ++ b).toInt = x.toInt * 256 + b.toNat := by
  have := b.isLt
  rw [BitVec.toInt_eq_toNat_cond, BitVec.toInt_eq_toNat_cond, toNat_append_byte]
  split <;> split <;> omega

/-- A value widened to a word and cut again. -/
theorem setWidth_widened {n : Nat} (hn : n ≤ 32) (x : BitVec n) : (x.setWidth 32).setWidth n = x := by
  apply BitVec.eq_of_toNat_eq
  rw [BitVec.toNat_setWidth, BitVec.toNat_setWidth_of_le hn, Nat.mod_eq_of_lt x.isLt]

theorem toInt_load_byte (s : State) (a : Nat) : (extendRead .byte true (s.readBytes a .byte)).toInt =
    (s.byteAt a).toInt := by
  rw [extendRead, State.readBytes, setWidth_widened (by decide),
    BitVec.toInt_signExtend_of_le (by decide)]

theorem toNat_load_byte (s : State) (a : Nat) : (extendRead .byte false (s.readBytes a .byte)).toNat =
    (s.byteAt a).toNat := by
  rw [extendRead, State.readBytes, setWidth_widened (by decide),
    BitVec.toNat_setWidth_of_le (by decide)]

theorem toInt_load_half (s : State) (a : Nat) : (extendRead .half true (s.readBytes a .half)).toInt =
    (s.byteAt (a + 1)).toInt * 256 + (s.byteAt a).toNat := by
  rw [extendRead, State.readBytes, setWidth_widened (by decide),
    BitVec.toInt_signExtend_of_le (by decide), toInt_append_byte]

theorem toNat_load_half (s : State) (a : Nat) : (extendRead .half false (s.readBytes a .half)).toNat =
    (s.byteAt (a + 1)).toNat * 256 + (s.byteAt a).toNat := by
  rw [extendRead, State.readBytes, setWidth_widened (by decide),
    BitVec.toNat_setWidth_of_le (by decide), toNat_append_byte]

theorem toNat_load_word (s : State) (a : Nat) : (extendRead .word true (s.readBytes a .word)).toNat =
    (s.byteAt (a + 3)).toNat * 2 ^ 24 + (s.byteAt (a + 2)).toNat * 2 ^ 16 + (s.byteAt (a + 1)).toNat * 2 ^ 8 +
      (s.byteAt a).toNat := by
  rw [extendRead, State.readBytes, toNat_append_byte, toNat_append_byte, toNat_append_byte]
  omega

/-- A load that reaches memory puts in `rd` what it reads there. -/
theorem registerResult_of_load {rd : RegNum} {ea : Word} {w : Width} {signed : Bool} {P : Word → Prop}
    (hx : exec i s = s.load rd ea w signed) (hreach : ReachesMemory s ea (widthBytes w) false)
    (hP : P (extendRead w signed (s.readBytes ea.toNat w))) :
    ∃ t v, exec i s = .next t ∧ RegisterResult s t rd v (s.pc + 4) ∧ P v :=
  registerResult_of_exec _ (hx.trans (load_of_reachesMemory hreach)) hP

/-- Settles O32: each load is what the memory holds at its address, in its width and extension. -/
theorem loadsFromMemory : Obligations.LoadsFromMemory := by
  intro s rd rs1 imm
  refine ⟨encodedAs_formatI (.lb rd rs1) rfl fun _ _ _ => rfl, encodedAs_formatI (.lh rd rs1) rfl fun _ _ _ => rfl,
    encodedAs_formatI (.lw rd rs1) rfl fun _ _ _ => rfl, encodedAs_formatI (.lbu rd rs1) rfl fun _ _ _ => rfl,
    encodedAs_formatI (.lhu rd rs1) rfl fun _ _ _ => rfl, effectiveAddress_eq_ofInt s rs1 imm, ?_⟩
  rintro ea rfl
  refine ⟨fun h => ⟨?lb, ?lbu⟩, fun h => ⟨?lh, ?lhu⟩, fun h => ?lw⟩
  case lb => exact registerResult_of_load (w := .byte) (signed := true) rfl h (toInt_load_byte ..)
  case lbu => exact registerResult_of_load (w := .byte) (signed := false) rfl h (toNat_load_byte ..)
  case lh => exact registerResult_of_load (w := .half) (signed := true) rfl h (toInt_load_half ..)
  case lhu => exact registerResult_of_load (w := .half) (signed := false) rfl h (toNat_load_half ..)
  case lw => exact registerResult_of_load (w := .word) (signed := true) rfl h (toNat_load_word ..)

/-! ### Devices (20_memory.md R91) -/

/-- A load from a device puts in `rd` some value of its width. -/
theorem registerResult_of_deviceLoad {rd : RegNum} {ea : Word} {w : Width} {signed : Bool} {P : Word → Prop}
    (hx : exec i s = s.load rd ea w signed) (hreach : Reaches s ea (widthBytes w) false .device)
    (hP : ∀ x, P (extendRead w signed x)) :
    ∃ t v, exec i s = .next t ∧ P v ∧ RegisterResult s { t with freeIndex := s.freeIndex } rd v (s.pc + 4) :=
  ⟨_, _, hx.trans (load_of_reachesDevice hreach), hP _, registerResult_drawn s rd _⟩

theorem onlyPc_of_deviceStore {ea v : Word} {w : Width} (hx : exec i s = s.store ea w v)
    (hreach : Reaches s ea (widthBytes w) true .device) : ∃ t, exec i s = .next t ∧ OnlyPc s t (s.pc + 4) :=
  ⟨_, hx.trans (store_of_reachesDevice hreach), onlyPc_setPc s _⟩

/-- The extension of a narrow value keeps its range. -/
theorem signed_byte_range (x : Word) :
    -128 ≤ (extendRead .byte true x).toInt ∧ (extendRead .byte true x).toInt < 128 := by
  rw [extendRead, BitVec.toInt_signExtend_of_le (by decide)]
  exact ⟨BitVec.le_toInt _, BitVec.toInt_lt⟩

theorem signed_half_range (x : Word) :
    -32768 ≤ (extendRead .half true x).toInt ∧ (extendRead .half true x).toInt < 32768 := by
  rw [extendRead, BitVec.toInt_signExtend_of_le (by decide)]
  exact ⟨BitVec.le_toInt _, BitVec.toInt_lt⟩

theorem unsigned_byte_range (x : Word) : (extendRead .byte false x).toNat < 256 := by
  rw [extendRead, BitVec.toNat_setWidth_of_le (by decide)]
  exact BitVec.isLt _

theorem unsigned_half_range (x : Word) : (extendRead .half false x).toNat < 65536 := by
  rw [extendRead, BitVec.toNat_setWidth_of_le (by decide)]
  exact BitVec.isLt _

/-- Settles O33: a device answers anything of the width, and keeps what it is given to itself. -/
theorem deviceAccesses : Obligations.DeviceAccesses := by
  rintro s rd rs1 rs2 imm ea rfl
  refine ⟨fun h => ⟨?lb, ?lbu⟩, fun h => ⟨?lh, ?lhu⟩, fun h => ?lw, fun h => ?sb, fun h => ?sh, fun h => ?sw⟩
  case lb =>
    obtain ⟨t, v, ht, ⟨hlo, hhi⟩, hres⟩ := registerResult_of_deviceLoad (i := .lb rd rs1 imm) (w := .byte)
      (P := fun v => -128 ≤ v.toInt ∧ v.toInt < 128) rfl h signed_byte_range
    exact ⟨t, v, ht, hlo, hhi, hres⟩
  case lbu => exact registerResult_of_deviceLoad (w := .byte) (signed := false) rfl h unsigned_byte_range
  case lh =>
    obtain ⟨t, v, ht, ⟨hlo, hhi⟩, hres⟩ := registerResult_of_deviceLoad (i := .lh rd rs1 imm) (w := .half)
      (P := fun v => -32768 ≤ v.toInt ∧ v.toInt < 32768) rfl h signed_half_range
    exact ⟨t, v, ht, hlo, hhi, hres⟩
  case lhu => exact registerResult_of_deviceLoad (w := .half) (signed := false) rfl h unsigned_half_range
  case lw =>
    obtain ⟨t, v, ht, -, hres⟩ := registerResult_of_deviceLoad (i := .lw rd rs1 imm) (w := .word) (signed := true)
      (P := fun _ => True) rfl h fun _ => trivial
    exact ⟨t, v, ht, hres⟩
  case sb => exact onlyPc_of_deviceStore (w := .byte) rfl h
  case sh => exact onlyPc_of_deviceStore (w := .half) rfl h
  case sw => exact onlyPc_of_deviceStore (w := .word) rfl h

/-! ### Where an access stops (20_memory.md R89, R94, R95) -/

section Stops

variable {ea : Word} {w : Width} {write : Bool} (k : Region → Result)

theorem withAccess_misaligned (h : ea.toNat % widthBytes w ≠ 0) :
    s.withAccess ea w write k = .refused .misalignedDataAccess := if_pos h

theorem withAccess_unmapped (h : ea.toNat % widthBytes w = 0)
    (hr : Config.dataRegion s.config ea.toNat (widthBytes w) write = none) :
    s.withAccess ea w write k = .fault (.unmappedAddress ea) := by
  simp [State.withAccess, h, hr]

theorem withAccess_busError (h : ea.toNat % widthBytes w = 0)
    (hr : ∃ q, Config.dataRegion s.config ea.toNat (widthBytes w) write = some q ∧ q.answersError = true) :
    s.withAccess ea w write k = .refused .busErrorResponse := by
  obtain ⟨q, hq, herr⟩ := hr
  simp [State.withAccess, h, hq, herr]

end Stops

/-- Settles O34: the eight instructions are one access each, which stops in the order of its checks. -/
theorem accessStops : Obligations.AccessStops := by
  rintro s r rs1 imm i n write ea rfl hmem
  have haccess : ∃ w k, exec i s = s.withAccess (s.effectiveAddress rs1 imm) w write k ∧ n = widthBytes w := by
    simp only [List.mem_cons, Prod.mk.injEq, List.not_mem_nil, or_false] at hmem
    rcases hmem with ⟨rfl, rfl, rfl⟩ | ⟨rfl, rfl, rfl⟩ | ⟨rfl, rfl, rfl⟩ | ⟨rfl, rfl, rfl⟩ | ⟨rfl, rfl, rfl⟩ |
      ⟨rfl, rfl, rfl⟩ | ⟨rfl, rfl, rfl⟩ | ⟨rfl, rfl, rfl⟩
    · exact ⟨.byte, _, rfl, rfl⟩
    · exact ⟨.byte, _, rfl, rfl⟩
    · exact ⟨.half, _, rfl, rfl⟩
    · exact ⟨.half, _, rfl, rfl⟩
    · exact ⟨.word, _, rfl, rfl⟩
    · exact ⟨.byte, _, rfl, rfl⟩
    · exact ⟨.half, _, rfl, rfl⟩
    · exact ⟨.word, _, rfl, rfl⟩
  obtain ⟨w, k, hx, rfl⟩ := haccess
  rw [hx]
  exact ⟨withAccess_misaligned k, withAccess_unmapped k, withAccess_busError k⟩

/-! ### Stores (43_store.md R215 to R218; 20_memory.md R87, R100) -/

/-- An access reaches a range of one kind. -/
theorem Reaches.kind_unique {ea : Word} {n : Nat} {write : Bool} {k l : RegionKind} (hk : Reaches s ea n write k)
    (hl : Reaches s ea n write l) : k = l := by
  obtain ⟨-, r, hr, -, rfl⟩ := hk
  obtain ⟨-, q, hq, -, rfl⟩ := hl
  rw [Option.some.inj (hr.symm.trans hq)]

theorem reachesMemory_iff {ea : Word} {n : Nat} {write : Bool} :
    ReachesMemory s ea n write ↔ ∃ kind, kind ≠ .device ∧ Reaches s ea n write kind := by
  constructor
  · rintro (h | h)
    · exact ⟨.programMemory, by decide, h⟩
    · exact ⟨.dataMemory, by decide, h⟩
  · rintro ⟨kind, hne, h⟩
    cases kind with
    | programMemory => exact .inl h
    | dataMemory => exact .inr h
    | device => exact absurd rfl hne

/-- A write of bytes in a range of memory, and the pc: the bytes, the frame and the record of stored code. -/
theorem stored_writeBytes {ea : Word} {n : Nat} {kind : RegionKind} (v : Word) (h : Reaches s ea n true kind) :
    Stored s (s.writeBytes kind ea.toNat v n).advance ea v n ∧
      CodeRecord s (s.writeBytes kind ea.toNat v n).advance ea n := by
  refine ⟨⟨fun a => ?_, rfl, fun _ => rfl, rfl⟩, fun hdata => ?_, fun hprog a => ?_⟩
  · rw [State.byteAt_advance, State.byteAt_writeBytes, byteOfWord_eq]
  · obtain rfl := h.kind_unique hdata
    rfl
  · obtain rfl := h.kind_unique hprog
    rw [State.advance_storedCode, State.writeBytes_storedCode, if_pos rfl, mem_addrInsertRange, or_comm]

/-- A store that reaches memory. -/
theorem stored_of_store {ea v : Word} {w : Width} (hx : exec i s = s.store ea w v)
    (h : ReachesMemory s ea (widthBytes w) true) :
    ∃ t, exec i s = .next t ∧ Stored s t ea v (widthBytes w) ∧ CodeRecord s t ea (widthBytes w) := by
  obtain ⟨kind, hne, hreach⟩ := reachesMemory_iff.mp h
  exact ⟨_, hx.trans (store_of_reaches hreach hne), stored_writeBytes v hreach⟩

/-- Settles O35: each store is the write of its width's low bytes. -/
theorem storesToMemory : Obligations.StoresToMemory := by
  intro s rs2 rs1 imm
  refine ⟨encodedAs_encodeS (.sb rs2 rs1) rfl fun _ _ _ => rfl, encodedAs_encodeS (.sh rs2 rs1) rfl fun _ _ _ => rfl,
    encodedAs_encodeS (.sw rs2 rs1) rfl fun _ _ _ => rfl, effectiveAddress_eq_ofInt s rs1 imm, ?_⟩
  rintro ea rfl
  exact ⟨stored_of_store (w := .byte) rfl, stored_of_store (w := .half) rfl, stored_of_store (w := .word) rfl⟩

/-! ### The fetch after a store (20_memory.md R100) -/

/-- The fetch looks at the pc, the map, and of the word at the pc at its bytes and whether they are stored. -/
theorem fetch_congr (hpc : t.pc = s.pc) (hconf : t.config = s.config)
    (hcode : ∀ b, s.pc.toNat ≤ b → b < s.pc.toNat + 4 → (b ∈ t.storedCode ↔ b ∈ s.storedCode))
    (hbyte : ∀ b, s.pc.toNat ≤ b → b < s.pc.toNat + 4 → t.byteAt b = s.byteAt b) : t.fetch = s.fetch := by
  have hany : ∀ a, a = s.pc.toNat → [a, a + 1, a + 2, a + 3].any (fun b => t.storedCode.contains b) =
      [a, a + 1, a + 2, a + 3].any (fun b => s.storedCode.contains b) := by
    rintro _ rfl
    rw [Bool.eq_iff_iff, any_storedCode, any_storedCode]
    constructor
    · rintro ⟨b, hb, h1, h2⟩
      exact ⟨b, (hcode b h1 h2).mp hb, h1, h2⟩
    · rintro ⟨b, hb, h1, h2⟩
      exact ⟨b, (hcode b h1 h2).mpr hb, h1, h2⟩
  unfold State.fetch
  simp only [hpc, hconf, hany _ rfl, hbyte _ (Nat.le_refl _) (by omega : s.pc.toNat < s.pc.toNat + 4),
    hbyte (s.pc.toNat + 1) (by omega) (by omega), hbyte (s.pc.toNat + 2) (by omega) (by omega),
    hbyte (s.pc.toNat + 3) (by omega) (by omega)]

/-- Settles O37: the store records exactly its addresses and writes exactly its bytes. -/
theorem storedCodeNotFetched : Obligations.StoredCodeNotFetched := by
  rintro s t rs2 rs1 imm i n ea p rfl hmem hreach hx hp hprog
  have hstore : ∃ w, exec i s = s.store (s.effectiveAddress rs1 imm) w (s.readReg rs2) ∧ n = widthBytes w := by
    simp only [List.mem_cons, Prod.mk.injEq, List.not_mem_nil, or_false] at hmem
    rcases hmem with ⟨rfl, rfl⟩ | ⟨rfl, rfl⟩ | ⟨rfl, rfl⟩
    · exact ⟨.byte, rfl, rfl⟩
    · exact ⟨.half, rfl, rfl⟩
    · exact ⟨.word, rfl, rfl⟩
  obtain ⟨w, hw, rfl⟩ := hstore
  obtain ⟨u, hu, ⟨hbytes, -, -, hframe⟩, -, hcode⟩ := stored_of_store hw (.inl hreach)
  obtain rfl : u = t := Host.Outcome.next.inj (hu.symm.trans hx)
  have hconf : u.config = s.config := by simpa using congrArg State.config hframe
  have hrecord := hcode hreach
  constructor
  · rintro ⟨b, hlo, hhi, hp1, hp2⟩
    exact State.fetch_modified hp (by rwa [State.setPc_config, hconf]) ⟨b, (hrecord b).mpr (.inr ⟨hlo, hhi⟩), hp1, hp2⟩
  · intro hapart
    refine fetch_congr rfl hconf (fun b h1 h2 => ?_) fun b h1 h2 => ?_
    · exact (hrecord b).trans (or_iff_left fun hin => hapart b hin.1 hin.2 ⟨h1, h2⟩)
    · exact (hbytes b).trans (if_neg fun hin => hapart b hin.1 hin.2 ⟨h1, h2⟩)

/-! ### Accesses of different widths to one word (20_memory.md R85) -/

theorem RegisterResult.readReg_eq {rd : RegNum} {v next : Word} (h : RegisterResult s t rd v next) (hrd : rd ≠ 0#5) :
    t.readReg rd = v := (h.1 rd).trans (if_pos ⟨rfl, hrd⟩)

/-- An offset that does not wrap. -/
theorem toNat_effectiveAddress {rs1 : RegNum} {imm : BitVec 12} {k : Nat} (himm : imm.toInt = k)
    (hlt : (s.readReg rs1).toNat + k < 2 ^ 32) : (s.effectiveAddress rs1 imm).toNat = (s.readReg rs1).toNat + k := by
  have := toNat_add_sextImm (s.readReg rs1) imm
  rw [State.effectiveAddress]
  omega

/-- The word at an address lies in data memory, whatever part of it is accessed. -/
def InDataMemory (c : Config) (a : Nat) : Prop :=
  ∀ (b n : Nat) (write : Bool), a ≤ b → b + n ≤ a + 4 → 0 < n →
    ∃ r, Config.dataRegion c b n write = some r ∧ r.answersError = false ∧ r.kind = .dataMemory

/-- An aligned part of that word is reached. -/
theorem InDataMemory.reaches {a k n : Nat} {ea : Word} (h : InDataMemory s.config a) (hea : ea.toNat = a + k)
    (hin : k + n ≤ 4) (hn : 0 < n) (halign : (a + k) % n = 0) (write : Bool) : ReachesMemory s ea n write :=
  .inr ⟨hea ▸ halign, hea ▸ h (a + k) n write (Nat.le_add_right ..) (by omega) hn⟩

section Word

variable {a : Nat} (halign : a % 4 = 0) (hbase : (s.readReg 1#5).toNat = a)

include halign hbase

/-- Where the parts of the word are. -/
theorem toNat_partAddress {imm : BitVec 12} {k : Nat} (himm : imm.toInt = k) (hk : k < 4) :
    (s.effectiveAddress 1 imm).toNat = a + k := by
  have := (s.readReg 1#5).isLt
  have hlt : (s.readReg 1#5).toNat + k < 2 ^ 32 := by omega
  rw [← hbase]
  exact toNat_effectiveAddress himm hlt

variable (hmap : InDataMemory s.config a) {imm : BitVec 12} {k : Nat} {x : Word}

include hmap

theorem lbu_part (himm : imm.toInt = k) (hk : k < 4) (hx : (s.byteAt (a + k)).toNat = x.toNat) :
    ∃ u, exec (.lbu 3 1 imm) s = .next u ∧ u.readReg 3#5 = x := by
  have hea := toNat_partAddress halign hbase himm hk
  have hreach := hmap.reaches hea (n := 1) (by omega) (by decide) (Nat.mod_one _) false
  obtain ⟨u, v, hu, hres, hv⟩ := registerResult_of_load (i := .lbu 3 1 imm) (w := .byte) (signed := false)
    (P := fun v => v.toNat = (s.byteAt (a + k)).toNat) rfl hreach (hea ▸ toNat_load_byte ..)
  exact ⟨u, hu, (hres.readReg_eq (by decide)).trans (BitVec.eq_of_toNat_eq (hv.trans hx))⟩

theorem lhu_part (himm : imm.toInt = k) (hk : k = 0 ∨ k = 2)
    (hx : (s.byteAt (a + k + 1)).toNat * 256 + (s.byteAt (a + k)).toNat = x.toNat) :
    ∃ u, exec (.lhu 3 1 imm) s = .next u ∧ u.readReg 3#5 = x := by
  have hea := toNat_partAddress halign hbase himm (by omega)
  have hreach := hmap.reaches hea (n := 2) (by omega) (by decide) (by omega) false
  obtain ⟨u, v, hu, hres, hv⟩ := registerResult_of_load (i := .lhu 3 1 imm) (w := .half) (signed := false)
    (P := fun v => v.toNat = (s.byteAt (a + k + 1)).toNat * 256 + (s.byteAt (a + k)).toNat) rfl hreach
    (hea ▸ toNat_load_half ..)
  exact ⟨u, hu, (hres.readReg_eq (by decide)).trans (BitVec.eq_of_toNat_eq (hv.trans hx))⟩

theorem lw_word (hx : (s.byteAt (a + 3)).toNat * 2 ^ 24 + (s.byteAt (a + 2)).toNat * 2 ^ 16 +
      (s.byteAt (a + 1)).toNat * 2 ^ 8 + (s.byteAt a).toNat = x.toNat) :
    ∃ u, exec (.lw 3 1 0) s = .next u ∧ u.readReg 3#5 = x := by
  have hea : (s.effectiveAddress 1 0).toNat = a :=
    toNat_partAddress halign hbase (k := 0) (by decide) (by decide)
  have hreach := hmap.reaches (k := 0) (n := 4) hea (by omega) (by decide) (by omega) false
  obtain ⟨u, v, hu, hres, hv⟩ := registerResult_of_load (i := .lw 3 1 0) (w := .word) (signed := true)
    (P := fun v => v.toNat = (s.byteAt (a + 3)).toNat * 2 ^ 24 + (s.byteAt (a + 2)).toNat * 2 ^ 16 +
      (s.byteAt (a + 1)).toNat * 2 ^ 8 + (s.byteAt a).toNat) rfl hreach (hea ▸ toNat_load_word ..)
  refine ⟨u, hu, (hres.readReg_eq (by decide)).trans (BitVec.eq_of_toNat_eq ?_)⟩
  rw [hv, hx]

/-- A store to a part of the word: its bytes there, the rest of the word, the registers and the map as before. -/
theorem store_part {w : Width} {rs2 : RegNum} {i : Instr}
    (hi : exec i s = s.store (s.effectiveAddress 1 imm) w (s.readReg rs2))
    (himm : imm.toInt = k) (hin : k + widthBytes w ≤ 4) (hk : (a + k) % widthBytes w = 0) :
    ∃ t, exec i s = .next t ∧ t.config = s.config ∧ (∀ r, t.readReg r = s.readReg r) ∧
      (∀ j, j < widthBytes w → (t.byteAt (a + (k + j))).toNat = (s.readReg rs2).toNat / 256 ^ j % 256) ∧
      ∀ b, b < a + k ∨ a + k + widthBytes w ≤ b → t.byteAt b = s.byteAt b := by
  have hpos : 0 < widthBytes w := by cases w <;> decide
  have hea := toNat_partAddress halign hbase himm (by omega)
  obtain ⟨t, ht, ⟨hbytes, -, hregs, hframe⟩, -⟩ := stored_of_store hi (hmap.reaches hea hin hpos hk true)
  refine ⟨t, ht, by simpa using congrArg State.config hframe, hregs, fun j hj => ?_, fun b hb => ?_⟩
  · rw [hbytes, hea, if_pos (by omega), ← Nat.add_assoc, Nat.add_sub_cancel_left, BitVec.toNat_ofNat]
  · rw [hbytes, hea, if_neg (by omega)]

end Word

/-- Settles O36: the word stored lies in four bytes, which the narrower accesses read and replace. -/
theorem mixedWidthExample : Obligations.MixedWidthExample := by
  intro s t a halign h1 h2 h4 hmap hsw
  have hbase : (s.readReg 1#5).toNat = a.toNat := congrArg BitVec.toNat h1
  obtain ⟨t', ht, hconf, hregs, hbytes, -⟩ := store_part halign hbase hmap (imm := 0) (k := 0) (w := .word)
    (rs2 := 2#5) (i := .sw 2 1 0) rfl (by decide) (by decide) halign
  obtain rfl : t' = t := Host.Outcome.next.inj (ht.symm.trans hsw)
  have hmapT : InDataMemory t'.config a.toNat := hconf ▸ hmap
  have hbaseT : (t'.readReg 1#5).toNat = a.toNat := (congrArg BitVec.toNat (hregs 1#5)).trans hbase
  have hbyte : ∀ k < 4, (t'.byteAt (a.toNat + k)).toNat = 0x44332211 / 256 ^ k % 256 := fun k hk => by
    have hk := hbytes k hk
    rwa [Nat.zero_add, h2] at hk
  obtain ⟨u, hu, hconfU, hregsU, hnew, hold⟩ := store_part halign hbaseT hmapT (imm := 1) (k := 1) (w := .byte)
    (rs2 := 4#5) (i := .sb 4 1 1) rfl (by decide) (by decide) (Nat.mod_one _)
  have hmapU : InDataMemory u.config a.toNat := hconfU ▸ hmapT
  have hbaseU : (u.readReg 1#5).toNat = a.toNat := (congrArg BitVec.toNat (hregsU 1#5)).trans hbaseT
  have hword : (u.byteAt (a.toNat + 3)).toNat * 2 ^ 24 + (u.byteAt (a.toNat + 2)).toNat * 2 ^ 16 +
      (u.byteAt (a.toNat + 1)).toNat * 2 ^ 8 + (u.byteAt a.toNat).toNat = (0x4433EE11#32).toNat := by
    rw [hold (a.toNat + 3) (by simp [widthBytes]), hold (a.toNat + 2) (by simp [widthBytes]), hold a.toNat (by omega),
      hbyte 3 (by decide), hbyte 2 (by decide), hnew 0 (by decide), hregs, h4,
      ← Nat.add_zero a.toNat, hbyte 0 (by decide)]
    decide
  obtain ⟨v, hv, hr⟩ := lw_word halign hbaseU hmapU hword
  refine ⟨lbu_part halign hbaseT hmapT (k := 0) (by decide) (by decide) (hbyte 0 (by decide)),
    lbu_part halign hbaseT hmapT (k := 1) (by decide) (by decide) (hbyte 1 (by decide)),
    lbu_part halign hbaseT hmapT (k := 2) (by decide) (by decide) (hbyte 2 (by decide)),
    lbu_part halign hbaseT hmapT (k := 3) (by decide) (by decide) (hbyte 3 (by decide)),
    lhu_part halign hbaseT hmapT (k := 0) (by decide) (.inl rfl) ?_,
    lhu_part halign hbaseT hmapT (k := 2) (by decide) (.inr rfl) ?_, u, v, hu, hv, hr⟩
  · rw [Nat.add_assoc, hbyte _ (by decide), hbyte _ (by decide)]
    decide
  · rw [Nat.add_assoc, hbyte _ (by decide), hbyte _ (by decide)]
    decide

end Sys2Proof.Machine
end

section
/-! The statements of 00_scope.md R13 and 60_exceptions.md about one step: the environment's moves, the trap that comes
before the fetch, the trap's entry and return, the sleep, the fetch and what it refuses. -/

namespace Sys2Proof.Machine

variable {s : State}

/-! ### The environment's moves (60_exceptions.md R325, R367) -/

/-- The id that the PLIC holds or raises stands on the wires. -/
theorem environment_extRequest_of_presented {id : SourceId}
    (h : s.extRequest = some id ∨ (s.extRequest = none ∧ s.nextInput.plicRaise = some id)) :
    s.environment.extRequest = some id := by
  unfold State.environment State.plicRaises
  rcases h with hheld | ⟨hfree, hraise⟩
  · simp [hheld]
  · simp [hfree, hraise]

theorem environment_extRequest_of_absent (hfree : s.extRequest = none) (hraise : s.nextInput.plicRaise = none) :
    s.environment.extRequest = none := by
  unfold State.environment State.plicRaises
  simp [hfree, hraise]

theorem acceptRequest_of_request {id : SourceId} (hreq : s.extRequest = some id) (hpend : s.extPending = none) :
    s.acceptRequest =
      { s with extPending := some id, extRequest := none, plicSignals := s.plicSignals ++ [.accepted id] } := by
  simp [State.acceptRequest, hreq, hpend]

/-- Without a request, or while one is pending, nothing is accepted. -/
theorem acceptRequest_of_idle (h : s.extRequest = none ∨ s.extPending ≠ none) : s.acceptRequest = s := by
  rcases s.acceptRequest_eq with he | ⟨id, hreq, hpend, -⟩
  · exact he
  · rcases h with h | h
    · exact absurd (hreq.symm.trans h) nofun
    · exact absurd hpend h

/-- Where nothing is accepted, the environment's last move leaves everything as it was. -/
theorem afterEnvironment_of_idle
    (h : s.nextInput.accept = false ∨ s.environment.extRequest = none ∨ s.extPending ≠ none) :
    s.afterEnvironment = s.environment := by
  unfold State.afterEnvironment
  split
  case isTrue haccept =>
    refine acceptRequest_of_idle ?_
    rw [State.environment_extPending]
    exact h.resolve_left (by rw [haccept]; decide)
  case isFalse => rfl

/-- Settles O17: the request on the wires is accepted when the input says so and nothing is pending, else it stays. -/
theorem externalRequestAccepted : Obligations.ExternalRequestAccepted := by
  refine ⟨fun s id _ hid => ⟨fun haccept hpend => ?accepted, fun hnot => ?waiting⟩, fun s hfree hraise => ?absent⟩
  case accepted =>
    have hafter : s.afterEnvironment = { s.environment with
        extPending := some id, extRequest := none, plicSignals := s.plicSignals ++ [.accepted id] } := by
      rw [State.afterEnvironment, if_pos haccept, acceptRequest_of_request
        (environment_extRequest_of_presented hid) (s.environment_extPending.trans hpend), s.environment_plicSignals]
    rw [getLsbD_mip_meip, hafter]
    exact ⟨rfl, rfl, rfl, rfl⟩
  case waiting =>
    rw [afterEnvironment_of_idle (hnot.imp_right .inr)]
    exact ⟨s.environment_extPending, environment_extRequest_of_presented hid, s.environment_plicSignals⟩
  case absent =>
    have hnone := environment_extRequest_of_absent hfree hraise
    rw [afterEnvironment_of_idle (.inr (.inl hnone))]
    exact ⟨s.environment_extPending, hnone, s.environment_plicSignals⟩

/-! ### Steps without an instruction (R13 (a); R325, R372, R373, R375) -/

/-- Settles O12: the checks of a step before its moves. -/
theorem runEnds : Obligations.RunEnds := by
  refine ⟨fun s => step_of_simEnded, fun s => step_of_softResetReq, fun s hended hreset id hid hpresented => ?_⟩
  refine step_of_badExternalId hended hreset ?_
  rw [State.badExternalId, environment_extRequest_of_presented hpresented]
  exact decide_eq_true hid

/-- Settles O11: a halt ends the step after the environment's moves. -/
theorem haltedHartRests : Obligations.HaltedHartRests := fun s hended hreset hid hhalt =>
  ⟨step_of_halt hended hreset hid hhalt, sameBesidesEnvironment_after s⟩

/-! ### The trap before the fetch (R334, R335, R350, R351) -/

/-- A takeable interrupt is chosen. -/
theorem exists_chooseInterrupt (h : s.takeable ≠ []) : ∃ c ∈ s.takeable, s.chooseInterrupt = some c := by
  obtain ⟨c, hc⟩ := Option.ne_none_iff_exists'.mp (mt State.chooseInterrupt_none.mp h)
  exact ⟨c, State.chooseInterrupt_mem hc, hc⟩

/-- The chosen interrupt is taken outside a handler and refused inside one. -/
theorem step_of_chooseInterrupt {c : TrapCause} (hrun : s.running) (herr : s.nextInput.coreError = false)
    (hc : s.afterEnvironment.chooseInterrupt = some c) : step s =
      if s.trapDepth = 0 then .next (s.afterEnvironment.takeTrap c) else .refused .nestedInterrupt := by
  rw [step_of_running hrun, herr, State.hartStep, hc, ← s.afterEnvironment_trapDepth]
  rfl

theorem step_of_takeable (hrun : s.running) (herr : s.nextInput.coreError = false)
    (htake : s.afterEnvironment.takeable ≠ []) (hdepth : s.trapDepth = 0) :
    ∃ c ∈ s.afterEnvironment.takeable, step s = .next (s.afterEnvironment.takeTrap c) := by
  obtain ⟨c, hmem, hc⟩ := exists_chooseInterrupt htake
  exact ⟨c, hmem, (step_of_chooseInterrupt hrun herr hc).trans (if_pos hdepth)⟩

/-- Settles O13: the enables and the pending bits of each kind, then the choice. -/
theorem takeableInterrupts : Obligations.TakeableInterrupts := by
  refine ⟨fun s => ⟨?software, ?timer, fun id => ?external, ?exception⟩, fun s => step_of_takeable⟩
  case software => rw [State.mem_takeable]; simp [and_comm, and_assoc]
  case timer => rw [State.mem_takeable]; simp [State.mtip, and_comm, and_assoc]
  case external => rw [State.mem_takeable]; simp [and_comm, and_assoc]
  case exception => rw [State.mem_takeable]; simp

/-- Two takeable interrupts of one kind are one: there is one pending external id. -/
theorem takeable_kind_inj {c d : TrapCause} (hc : c ∈ s.takeable) (hd : d ∈ s.takeable)
    (hkind : trapKind c = trapKind d) : c = d := by
  obtain ⟨-, hc⟩ := State.mem_takeable.mp hc
  obtain ⟨-, hd⟩ := State.mem_takeable.mp hd
  rcases hc with ⟨rfl, -⟩ | ⟨rfl, -⟩ | ⟨-, id, rfl, hid⟩ <;> rcases hd with ⟨rfl, -⟩ | ⟨rfl, -⟩ | ⟨-, jd, rfl, hjd⟩ <;>
    first | exact congrArg TrapCause.external (Option.some.inj (hid.symm.trans hjd)) | cases hkind <;> rfl

/-- The list of priorities picks the cause of its first kind that has one, where kinds tell the causes apart. -/
theorem firstByPriority_eq {causes : List TrapCause} {c : TrapCause} {k : IrqKind} (skipped rest : List IrqKind)
    (hinj : ∀ d ∈ causes, trapKind d = some k → d = c) (hc : c ∈ causes) (hk : trapKind c = some k)
    (hskip : ∀ d ∈ causes, ∀ j ∈ skipped, trapKind d ≠ some j) :
    firstByPriority causes (skipped ++ k :: rest) = some c := by
  induction skipped with
  | nil =>
    obtain ⟨d, hd⟩ := Option.isSome_iff_exists.mp
      (List.find?_isSome.mpr ⟨c, hc, beq_iff_eq.mpr hk⟩ : (causes.find? fun c => trapKind c == some k).isSome)
    have hdk := List.find?_some hd
    rw [List.nil_append, firstByPriority, hd]
    exact congrArg some (hinj d (List.mem_of_find?_eq_some hd) (beq_iff_eq.mp hdk))
  | cons j js ih =>
    have hnone : causes.find? (fun c => trapKind c == some j) = none :=
      List.find?_eq_none.mpr fun d hd h => hskip d hd j List.mem_cons_self (beq_iff_eq.mp h)
    rw [List.cons_append, firstByPriority, hnone]
    exact ih fun d hd i hi => hskip d hd i (List.mem_cons_of_mem _ hi)

theorem chooseInterrupt_of_single {c : TrapCause} (h : s.takeable = [c]) : s.chooseInterrupt = some c := by
  simp [State.chooseInterrupt, h]

/-- The parameter's order decides (R335). -/
theorem chooseInterrupt_of_priority {c : TrapCause} {k : IrqKind} {skipped rest : List IrqKind} (hc : c ∈ s.takeable)
    (hk : trapKind c = some k) (hprio : s.config.irqPriority = skipped ++ k :: rest)
    (hskip : ∀ d ∈ s.takeable, ∀ j ∈ skipped, trapKind d ≠ some j) : s.chooseInterrupt = some c := by
  have hfirst : firstByPriority s.takeable s.config.irqPriority = some c := hprio ▸
    firstByPriority_eq skipped rest (fun d hd hdk => takeable_kind_inj hd hc (hdk.trans hk.symm)) hc hk hskip
  unfold State.chooseInterrupt
  split
  case h_1 hnil => rw [hnil] at hc; cases hc
  case h_2 d hone => rw [hone, List.mem_singleton] at hc; rw [hc]
  case h_3 d ds _ hmore => rw [hmore] at hfirst; rw [hfirst]

/-- Settles O14: one takeable interrupt is it, and the parameter's order decides between several. -/
theorem interruptPriority : Obligations.InterruptPriority := by
  refine fun s hrun herr hdepth => ⟨fun htake => step_of_takeable hrun herr htake hdepth, fun c hone => ?_,
    fun c k skipped rest hc hk hprio hskip => ?_⟩
  · exact (step_of_chooseInterrupt hrun herr (chooseInterrupt_of_single hone)).trans (if_pos hdepth)
  · have hchoose := chooseInterrupt_of_priority hc hk (s.afterEnvironment_config ▸ hprio) hskip
    exact (step_of_chooseInterrupt hrun herr hchoose).trans (if_pos hdepth)

/-- Settles O15: trap entry clears the enable, and the choice is refused inside a handler. -/
theorem nestedInterruptRefused : Obligations.NestedInterruptRefused := by
  refine ⟨fun s c => rfl, fun s hrun herr htake hdepth => ?_⟩
  obtain ⟨c, -, hc⟩ := exists_chooseInterrupt htake
  exact (step_of_chooseInterrupt hrun herr hc).trans (if_neg (Nat.ne_of_gt hdepth))

/-- Settles O16: the hart looks at the error before anything else. -/
theorem coreExceptionOutranks : Obligations.CoreExceptionOutranks := by
  intro s hrun herr
  rw [step_of_running hrun, herr]
  rfl

/-! ### Trap entry and return (R340 to R344, R348, R350, R351; 47_trap_ret_wfi.md R265) -/

/-- `mcause` holds the Trap code below bit 31, for each of the 20 codes and beyond (R320, R343). -/
theorem toNat_trapMcause_mod (c : TrapCause) : (trapMcause c).toNat % 2 ^ 31 = trapCode c := by
  cases c with
  | external id => revert id; decide
  | coreException | software | timer => decide

theorem trapMcause_external (id : SourceId) : trapMcause (.external id) = 0x80000004#32 + id.setWidth 32 := by
  revert id; decide

theorem trapCode_le (c : TrapCause) : trapCode c ≤ 35 := by
  cases c with
  | external id => have := id.isLt; simp only [trapCode]; omega
  | coreException | software | timer => decide

/-- The vector table's entry of a Trap code (R341, D12). -/
theorem toNat_takeTrap_pc (s : State) (c : TrapCause) :
    (s.takeTrap c).pc.toNat = (4 * s.csrs.mtvecBase.toNat + 4 * trapCode c) % 2 ^ 32 := by
  have hbase : s.vectorBase.toNat = 4 * s.csrs.mtvecBase.toNat := by
    rw [State.vectorBase, BitVec.toNat_append, BitVec.toNat_ofNat, Nat.zero_mod, Nat.or_zero, Nat.shiftLeft_eq,
      Nat.mul_comm]
  have hcode := trapCode_le c
  rw [State.takeTrap_pc, BitVec.toNat_add, hbase, BitVec.toNat_ofNat]
  omega

/-- Settles O18: the fields of the entry one by one; the rest is the state before. -/
theorem trapEntry : Obligations.TrapEntry := by
  intro s c
  refine ⟨rfl, rfl, rfl, ?mcause, ?mtval, ?pc, rfl, rfl, ?pending, ?service, fun _ => rfl, rfl⟩
  case mcause =>
    cases c with
    | external id => exact trapMcause_external id
    | coreException | software | timer => rfl
  case mtval =>
    intro hne
    cases c with
    | coreException => exact absurd rfl hne
    | software | timer | external => rfl
  case pc => rw [toNat_takeTrap_pc, ← toNat_trapMcause_mod]; rfl
  case pending => cases c <;> rfl
  case service => cases c <;> rfl

/-- Settles O19: each row of the table is the code of its cause, four bytes an entry. -/
theorem trapVectorTable : Obligations.TrapVectorTable := by
  intro s c code offset hrow
  have hentry : trapMcause c = code ∧ 4 * trapCode c = offset ∧ offset < 2 ^ 32 := by
    simp only [List.mem_cons, Prod.mk.injEq, List.not_mem_nil, or_false] at hrow
    rcases hrow with ⟨rfl, rfl, rfl⟩ | ⟨rfl, rfl, rfl⟩ | ⟨rfl, rfl, rfl⟩ | ⟨rfl, rfl, rfl⟩ | ⟨rfl, rfl, rfl⟩ |
      ⟨rfl, rfl, rfl⟩ | ⟨rfl, rfl, rfl⟩ | ⟨rfl, rfl, rfl⟩ | ⟨rfl, rfl, rfl⟩ | ⟨rfl, rfl, rfl⟩ | ⟨rfl, rfl, rfl⟩ |
      ⟨rfl, rfl, rfl⟩ | ⟨rfl, rfl, rfl⟩ | ⟨rfl, rfl, rfl⟩ | ⟨rfl, rfl, rfl⟩ | ⟨rfl, rfl, rfl⟩ | ⟨rfl, rfl, rfl⟩ |
      ⟨rfl, rfl, rfl⟩ | ⟨rfl, rfl, rfl⟩ <;> decide
  obtain ⟨hcode, hoffset, hlt⟩ := hentry
  have hpc := toNat_takeTrap_pc s c
  rw [hoffset] at hpc
  refine ⟨hcode, hpc, fun hbase => ?_⟩
  rw [hpc, hbase, BitVec.toNat_ofNat, Nat.zero_mod, Nat.mul_zero, Nat.zero_add, Nat.mod_eq_of_lt hlt]

/-- Settles O20: the fixed word, and the fields of the return one by one. -/
theorem mretReturns : Obligations.MretReturns := by
  refine ⟨by decide, fun s => ⟨_, rfl, rfl, rfl, rfl, rfl, rfl, ?_, fun _ => rfl, fun _ => rfl, rfl⟩⟩
  unfold State.trapReturn
  cases s.extInService with
  | some id => rfl
  | none => exact (List.append_nil _).symm

/-- Settles O21: what the entry saves the return restores; a second return finds `MPIE` 0. -/
theorem mretUndoesTrapEntry : Obligations.MretUndoesTrapEntry := by
  refine ⟨fun s c => ⟨_, rfl, rfl, rfl, rfl, rfl, fun _ => rfl, fun _ => rfl⟩, fun s t u hmie ht hu => ?_⟩
  cases ht
  cases hu
  exact ⟨hmie, rfl, rfl, rfl⟩

/-- Settles O22: the sleep is the instruction's only effect, and a step asleep is a rest or a trap. -/
theorem wfiSleepsUntilTakeable : Obligations.WfiSleepsUntilTakeable := by
  refine ⟨by decide, fun s => ⟨_, rfl, rfl, rfl, fun _ => rfl, fun _ => rfl, rfl⟩,
    fun s hrun herr hasleep => ⟨fun hnone => ⟨?rest, sameBesidesEnvironment_after s⟩, fun htake hdepth => ?wake⟩⟩
  case rest =>
    rw [step_of_running hrun, herr, State.hartStep, State.chooseInterrupt_none.mpr hnone,
      s.afterEnvironment_asleep, hasleep]
    rfl
  case wake =>
    obtain ⟨c, -, hstep⟩ := step_of_takeable hrun herr htake hdepth
    exact ⟨_, hstep, rfl, s.afterEnvironment_pc⟩

/-! ### The fetch and the decoder in a step (R13 (e); 20_memory.md R88, R90, R100; 30_encoding.md R132 to R134) -/

/-- Settles O7: the step at an instruction is its meaning, and the environment keeps to its own. -/
theorem stepRunsDecodedInstruction : Obligations.StepRunsDecodedInstruction := fun s _ _ hat hw hd =>
  ⟨step_of_decode hat hw hd, sameBesidesEnvironment_after s⟩

/-- A refused fetch is the step's refusal. -/
theorem step_of_fetch_error {x : Refusal} (hat : s.atInstruction) (h : s.afterEnvironment.fetch = .error x) :
    step s = .refused x := by
  rw [step_of_atInstruction hat, State.runInstruction, h]

/-- Settles O8: the three stops of the fetch, which looks at what the environment does not move. -/
theorem fetchRefusals : Obligations.FetchRefusals := by
  refine fun s hat => ⟨fun hpc => ?_, fun hpc hprog => ?_, fun hpc hprog hcode => ?_⟩ <;>
    refine step_of_fetch_error hat ?_
  · exact State.fetch_misaligned (by rwa [s.afterEnvironment_pc])
  · exact State.fetch_outside (by rwa [s.afterEnvironment_pc])
      (by rwa [s.afterEnvironment_pc, s.afterEnvironment_config])
  · exact State.fetch_modified (by rwa [s.afterEnvironment_pc])
      (by rwa [s.afterEnvironment_pc, s.afterEnvironment_config])
      (by rwa [s.afterEnvironment_pc, s.afterEnvironment_storedCode])

/-- What a word outside the list does under each policy (R132). -/
theorem unlisted_of_refuse (w : Word) (h : s.config.unlistedPolicy = .refuse) :
    s.unlisted w = .refused (.unlistedEncoding w s.pc) := by
  simp [State.unlisted, h]

theorem unlisted_of_trapCode1 (w : Word) (h : s.config.unlistedPolicy = .trapCode1) :
    s.unlisted w = .next (s.takeTrap .coreException) := by
  simp [State.unlisted, h]

/-- Settles O9: the decoder's two reasons in a step. -/
theorem undecodableWords : Obligations.UndecodableWords := by
  intro s w hat hw
  have hstep := step_of_atInstruction hat
  rw [State.runInstruction, State.fetch_iff.mpr hw, s.afterEnvironment_config] at hstep
  refine ⟨fun hd => ?_, fun hd => by simpa only [hd] using hstep⟩
  simp only [hd] at hstep
  rw [hstep]
  exact ⟨fun hpol => by rw [unlisted_of_refuse w (s.afterEnvironment_config ▸ hpol), s.afterEnvironment_pc],
    fun hpol => unlisted_of_trapCode1 w (s.afterEnvironment_config ▸ hpol)⟩

/-- The word of `fence` as R133 prints it. -/
theorem encode_fence (fm pred succ : BitVec 4) (rs1 rd : RegNum) : encode (.fence fm pred succ rs1 rd) =
    fm ++ pred ++ succ ++ rs1 ++ 0b000#3 ++ rd ++ 0b0001111#7 :=
  congrArg (· ++ rs1 ++ 0b000#3 ++ rd ++ 0b0001111#7) (imm12_join (fm ++ pred ++ succ))

/-- Settles O10: each has its word, and its meaning is that of a word outside the list. -/
theorem unlistedInstructions : Obligations.UnlistedInstructions := by
  intro s fm pred succ rs1 rd
  have hecall : encode .ecall = 0x00000073#32 := by decide
  have hebreak : encode .ebreak = 0x00100073#32 := by decide
  rw [← encode_fence, ← hecall, ← hebreak]
  exact ⟨encodedAs_encode rfl, encodedAs_encode rfl, encodedAs_encode rfl,
    fun hpol => ⟨unlisted_of_refuse _ hpol, unlisted_of_refuse _ hpol, unlisted_of_refuse _ hpol⟩,
    fun hpol => ⟨unlisted_of_trapCode1 _ hpol, unlisted_of_trapCode1 _ hpol, unlisted_of_trapCode1 _ hpol⟩⟩

end Sys2Proof.Machine
end

section
/-! The jumps of 45_jump.md, and the state after reset (10_state.md R54, R61; 70_reset_and_hazards.md). -/

namespace Sys2Proof.Machine

/-! ### Jumps (R245, R246) -/

/-- The word of the J format as R126 prints it. -/
theorem encode_jal (rd : RegNum) (o : BitVec 21) : encode (.jal rd o) =
    o.extractLsb' 20 1 ++ o.extractLsb' 1 10 ++ o.extractLsb' 11 1 ++ o.extractLsb' 12 8 ++ rd ++ 0b1101111#7 :=
  congrArg (· ++ rd ++ 0b1101111#7) (immU_join _ rd 0b1101111#7)

theorem jumpTarget_eq_ofInt (s : State) (o : BitVec 21) :
    s.jumpTarget o = BitVec.ofInt 32 (s.pc.toNat + o.toInt) := by
  rw [State.jumpTarget, BitVec.ofInt_add, BitVec.ofInt_natCast, BitVec.ofNat_toNat, BitVec.setWidth_eq]
  rfl

/-- Bit 0 of a target computed over the integers tells whether it is odd. -/
theorem getLsbD_zero_ofInt (z : Int) : (BitVec.ofInt 32 z).getLsbD 0 = decide (z % 2 = 1) := by
  rw [BitVec.getLsbD, Nat.testBit_zero, BitVec.toNat_ofInt]
  congr 1
  apply propext
  omega

/-- Settles O41: the link, the target over the integers, and the parity that refuses it. -/
theorem jumpsLink : Obligations.JumpsLink := by
  intro s rd rs1 imm f o heven
  have hbit : o.getLsbD 0 = false := by rw [heven]; exact (BitVec.getLsbD_append ..).trans rfl
  have hea := effectiveAddress_eq_ofInt s rs1 imm
  have hodd : (s.effectiveAddress rs1 imm).getLsbD 0 = decide (((s.readReg rs1).toNat + imm.toInt) % 2 = 1) := by
    rw [hea, getLsbD_zero_ofInt]
  refine ⟨?_, encodedAs_formatI (.jalr rd rs1) rfl fun _ _ _ => rfl, ⟨_, rfl, ?_⟩,
    fun h => ⟨(s.writeReg rd (s.pc + 4)).setPc (s.effectiveAddress rs1 imm), ?_, ?_⟩, fun h => ?_⟩
  · rw [← encode_jal]
    exact encodedAs_encode ((Bool.not_eq_true' _).mpr hbit)
  · rw [← jumpTarget_eq_ofInt]
    exact registerResult_writeReg s rd _ _
  · exact if_neg (by rw [hodd]; simp [h])
  · rw [← hea]
    exact registerResult_writeReg s rd _ _
  · exact if_pos (by rw [hodd]; simp [h])

/-! ### Reset -/

/-- After reset a reading depends on the parameters only in `mimpid`. -/
theorem csrRead_launch {a : CsrAddr} (ha : a ≠ 0xF13#12) (c : Config) (x : Vector Word 32) (image : Memory)
    (inputs : List Input) : (State.launch c x image inputs).csrRead a = State.reset.csrRead a := by
  unfold State.csrRead
  split <;> first | rfl | contradiction

/-- Settles O52: the launch sets every field, whatever its arguments are. -/
theorem resetValues : Obligations.ResetValues := by
  refine ⟨?_, Config.default, Vector.replicate 32 0, [], [], by decide, rfl⟩
  rintro c x image inputs _ rfl
  refine ⟨fun a v hrow => ?_, rfl, fun r hr => ?_, rfl, rfl, rfl, rfl, rfl, rfl, rfl, rfl, rfl, rfl, rfl, rfl⟩
  · simp only [List.mem_cons, Prod.mk.injEq, List.not_mem_nil, or_false] at hrow
    rcases hrow with ⟨rfl, rfl⟩ | ⟨rfl, rfl⟩ | ⟨rfl, rfl⟩ | ⟨rfl, rfl⟩ | ⟨rfl, rfl⟩ | ⟨rfl, rfl⟩ | ⟨rfl, rfl⟩ |
      ⟨rfl, rfl⟩ | ⟨rfl, rfl⟩ | ⟨rfl, rfl⟩ | ⟨rfl, rfl⟩ | ⟨rfl, rfl⟩ | ⟨rfl, rfl⟩ | ⟨rfl, rfl⟩ | ⟨rfl, rfl⟩ |
      ⟨rfl, rfl⟩ | ⟨rfl, rfl⟩ | ⟨rfl, rfl⟩ | ⟨rfl, rfl⟩ | ⟨rfl, rfl⟩
    pick_goal 19
    · exact State.csrRead_mimpid _
    all_goals exact (csrRead_launch (by decide) c x image inputs).trans (by decide)
  · have hne : 0 ≠ r.toNat := RegNum.toNat_ne (r := 0#5) hr
    exact (if_neg hr).trans (Vector.getElem_set_ne (by decide) r.isLt hne)

/-- Settles O53: the launch has the image as its memory, 0 in slot 0, and nothing recorded, pending or in service. -/
theorem invariantAtReset : Obligations.InvariantAtReset := by
  have hlaunch : ∀ (c : Config) (x : Vector Word 32) (image : Memory) (inputs : List Input), Memory.wf image →
      (State.launch c x image inputs).Inv := fun c x image inputs himage =>
    ⟨himage, .nil, nofun, Vector.getElem_set_self _, nofun, nofun, nofun, fun h => absurd rfl h⟩
  exact ⟨hlaunch _ _ _ _ ⟨.nil, nofun⟩, hlaunch⟩

end Sys2Proof.Machine
end
